-- ==== Sys2Proof/Word.lean ====
section
/-! DEFINITION. The widths of 00_scope.md R9: a byte is 8 bits, a header field 4 bits, a microsecond value 64 bits. -/

namespace Sys2Proof

/-- A byte of a byte sequence, and every event, timecode and quarter-frame field (R9, R22). -/
abbrev Byte := BitVec 8

/-- A field of the payload header, and a nibble of the quarter-frame data byte (R23, R81). -/
abbrev Nibble := BitVec 4

/-- A microsecond time value (R27). -/
abbrev Microseconds := BitVec 64

end Sys2Proof
end

