-- ==== Sys2Proof/Config.lean ====
section
/-! DEFINITION. The fixed constants of the block (00_scope.md R11) and the parameters the spec leaves open
(R10, R58, R194, R237). An open parameter is opaque: no proof can see its value. -/

namespace Sys2Proof.Config

/-! Constants of R11. -/

def mtcQf : Byte := 0xF1
def sysexStart : Byte := 0xF0
def sysexEnd : Byte := 0xF7
/-- The byte the source calls "manufacturer-ID". -/
def mfrId : Byte := 0x7F
/-- "broadcast-device-ID". -/
def deviceId : Byte := 0x7F
def subMtc : Byte := 0x01
def subMtcFull : Byte := 0x01
def subMmc : Byte := 0x06
def mmcStop : Byte := 0x01
def mmcPlay : Byte := 0x02
def mmcLocate : Byte := 0x44
def locateDataLen : Byte := 0x06
def locateTarget : Byte := 0x01
/-- Frames a second, non-drop. -/
def fps : Nat := 30
/-- The frame-rate code of 30 fps non-drop. -/
def rate30nd : Nat := 0b11
def lenQf : Nat := 2
def lenFull : Nat := 10
def lenStop : Nat := 6
def lenPlay : Nat := 6
def lenLocate : Nat := 13
def usPerS : Nat := 1000000

/-- R195: the maximum buffer size the adapter reports, in bytes. -/
def adapterMaxBuffer : Nat := 16

/-! Open parameters. -/

/-- How far `BUF_CAP` lies above the least value R10 admits. OPEN (D7): no body, log 6. -/
opaque bufCapAbove16 : Nat

/-- R10: `BUF_CAP`, the longest byte sequence the block accepts or returns; values below 16 are not admitted. -/
def bufCap : Nat := bufCapAbove16 + 16

/-- R58: where the block sits in a system's address map. OPEN, read by no rule, log 15. -/
opaque mfcBase : Nat

/-- R237: the latency of every operation, finite and unspecified. OPEN, read by no rule, log 15. -/
opaque latency : Nat

/-- R194: the human-readable string of an adapter code, by its number; the texts are not in the source, log 17. -/
opaque adapterString : Nat → String

end Sys2Proof.Config
end

