-- ==== Sys2Proof/Syntax.lean ====
section
/-! DEFINITION. The value types of 10_state.md, the request as the host presents it (30_encoding.md R70), and `Instr`,
one constructor per row of opcode_table.json. -/

namespace Sys2Proof

/-! ## Value types -/

/-- R23: the payload header, two 4-bit fields. -/
structure PayloadHeader where
  flags : Nibble
  len : Nibble
deriving DecidableEq, Repr

/-- R25: exactly these six variants. -/
inductive MidiEvent where
  | mtcQuarter (msgType value : Byte)
  | mtcFull (hour minute second frame : Byte)
  | mmcStop
  | mmcPlay
  | mmcLocate (hour minute second frame subframe : Byte)
  | other (bytes : List Byte)
deriving DecidableEq, Repr

/-- R28: an SMPTE timecode, not range-enforced. -/
structure MtcFullFrame where
  hours : Byte
  minutes : Byte
  seconds : Byte
  frames : Byte
deriving DecidableEq, Repr

/-- R29: one quarter frame. -/
structure MtcQuarterFrame where
  frameType : Byte
  value : Byte
deriving DecidableEq, Repr

/-- R29: a quarter-frame array, exactly 8 entries with indices 0 to 7. -/
structure QuarterFrameArray where
  q0 : MtcQuarterFrame
  q1 : MtcQuarterFrame
  q2 : MtcQuarterFrame
  q3 : MtcQuarterFrame
  q4 : MtcQuarterFrame
  q5 : MtcQuarterFrame
  q6 : MtcQuarterFrame
  q7 : MtcQuarterFrame
deriving DecidableEq, Repr

/-- R191: the adapter's 8-byte data buffer. -/
structure DescriptorData where
  d0 : Byte
  d1 : Byte
  d2 : Byte
  d3 : Byte
  d4 : Byte
  d5 : Byte
  d6 : Byte
  d7 : Byte
deriving DecidableEq, Repr

/-- R191: the adapter's event descriptor. -/
structure Descriptor where
  kind : Byte
  data : DescriptorData
  length : Byte
deriving DecidableEq, Repr

/-! ## What the host presents -/

/-- An operand before the interface has looked at its shape (R73): the values it is made of, with no width imposed,
so that a request of the wrong shape can be written and is refused (R204). DESIGN CHOICE, log 1. -/
inductive Operand where
  | num (n : Nat)
  | bytes (s : List Byte)
  | header (flags len : Nat)
  /-- An event by its tag (R35) and its fields in R25's order; the fields of tag 5 (`Other`) are its bytes. -/
  | event (tag : Nat) (fields : List Nat)
  /-- Hours, minutes, seconds, frames. -/
  | timecode (fields : List Nat)
  /-- Pairs of frame type and value. -/
  | quarterFrames (frames : List (Nat × Nat))
deriving DecidableEq, Repr

/-- R70: a request is an 8-bit opcode with operands. -/
structure Request where
  op : Byte
  args : List Operand
deriving DecidableEq, Repr

/-- The adapter's two entry points (R196, R197): function calls with no opcode. -/
inductive Call where
  | master (d : Descriptor) (cap : Nat)
  | slave (p : List Byte)
deriving DecidableEq, Repr

/-- An encoded instruction, by the "format" column of opcode_table.json. -/
inductive Encoded where
  | request (r : Request)
  | wire (bytes : List Byte)
  | header (b : Byte)
  | payload (bytes : List Byte)
  | call (c : Call)
deriving DecidableEq, Repr

/-- What the parser's decoder reads from a byte sequence (R86): one of the five layouts or anything else. -/
inductive WireMessage where
  | mtcQuarter (t v : Nibble)
  | mtcFull (hour minute second frame : Byte)
  | mmcStop
  | mmcPlay
  | mmcLocate (hour minute second frame subframe : Byte)
  | other (bytes : List Byte)
deriving DecidableEq, Repr

/-- Why the decoder rejects an encoded instruction. For a request each is the interface's verdict REFUSED (R204). -/
inductive Reject where
  /-- R73: the operands do not have the shape R70 names for the opcode. -/
  | operandShape
  /-- R9, R10, R66: a byte-sequence operand is longer than `BUF_CAP`, or MIDI_PARSE's `len` is above it. -/
  | operandTooLong
  /-- A message of no bytes is no message (R110 step 1). -/
  | emptyMessage
  /-- A payload has at least its header byte (R90). -/
  | emptyPayload
deriving DecidableEq, Repr

/-! ## Instructions -/

/-- One constructor per row of opcode_table.json, in the table's order. -/
inductive Instr where
  /-- HDR_NEW, 0x01. -/
  | hdrNew (flags len : Byte)
  /-- HDR_SERIALIZE, 0x02. -/
  | hdrSerialize (h : PayloadHeader)
  /-- HDR_PARSE, 0x03. -/
  | hdrParse (buf : List Byte)
  /-- MIDI_PARSE, 0x10: the whole `buf` beside the requested length (R65). -/
  | midiParse (buf : List Byte) (len : Nat)
  /-- MIDI_BUILD, 0x11. -/
  | midiBuild (e : MidiEvent)
  /-- US_TO_SMPTE, 0x20. -/
  | usToSmpte (us : Microseconds)
  /-- SMPTE_TO_US, 0x21. -/
  | smpteToUs (f : MtcFullFrame)
  /-- SMPTE_TO_QF, 0x22. -/
  | smpteToQf (f : MtcFullFrame)
  /-- QF_TO_SMPTE, 0x23. -/
  | qfToSmpte (q : QuarterFrameArray)
  /-- MASTER_FLOW, 0x30. -/
  | masterFlow (e : MidiEvent)
  /-- SLAVE_FLOW, 0x31. -/
  | slaveFlow (p : List Byte)
  /-- RESERVED_OPCODE: any opcode R70 does not list (R72). -/
  | reservedOpcode (op : Byte)
  /-- MSG_MTC_QUARTER (R81). -/
  | msgMtcQuarter (t v : Nibble)
  /-- MSG_MTC_FULL (R82). -/
  | msgMtcFull (hour minute second frame : Byte)
  /-- MSG_MMC_STOP (R83). -/
  | msgMmcStop
  /-- MSG_MMC_PLAY (R84). -/
  | msgMmcPlay
  /-- MSG_MMC_LOCATE (R85); `subframe` is the wire byte at offset 11. -/
  | msgMmcLocate (hour minute second frame subframe : Byte)
  /-- MSG_OTHER (R86): the bytes verbatim. -/
  | msgOther (bytes : List Byte)
  /-- PAYLOAD_HEADER (R89). -/
  | payloadHeader (flags len : Nibble)
  /-- NETSYNC_PAYLOAD (R90): the header byte and the bytes that follow it. -/
  | netsyncPayload (h : PayloadHeader) (msg : List Byte)
  /-- ADAPTER_MASTER (R196). -/
  | adapterMaster (d : Descriptor) (cap : Nat)
  /-- ADAPTER_SLAVE (R197). -/
  | adapterSlave (p : List Byte)
deriving DecidableEq, Repr

end Sys2Proof
end

