-- ==== Sys2Proof/WellFormed.lean ====
section
/-! DEFINITION. Which instructions some encoding stands for: a byte sequence fits `BUF_CAP` (30_encoding.md R73), a
reserved opcode is none of R70's, and a message row is one that the decode conditions of R86 select. -/

namespace Sys2Proof

/-- The opcodes R70 lists; every other is reserved (R72). -/
def listedOpcodes : List Byte := [0x01, 0x02, 0x03, 0x10, 0x11, 0x20, 0x21, 0x22, 0x23, 0x30, 0x31]

/-- R10: a byte sequence of this length is accepted. -/
def fitsBufCap (s : List Byte) : Bool := s.length ≤ Config.bufCap

/-- R66 with R30: the bytes an `Other` event carries are a byte-sequence operand. DEDUCED, log 6. -/
def MidiEvent.fits : MidiEvent → Bool
  | .other bytes => fitsBufCap bytes
  | _ => true

/-- R66: every byte-sequence operand of the instruction is at most `BUF_CAP` long, and MIDI_PARSE's `len` is bounded by it as
well (R9). An adapter call's payload is no
operand of the block until the adapter issues it (R197), so the call itself has no bound. That a `len` above the bound
is refused like a byte sequence above it is DEDUCED, log 26. -/
def Instr.fits : Instr → Bool
  | .hdrParse buf => fitsBufCap buf
  | .midiParse buf len => fitsBufCap buf && len ≤ Config.bufCap
  | .midiBuild e => e.fits
  | .masterFlow e => e.fits
  | .slaveFlow p => fitsBufCap p
  | .msgOther bytes => fitsBufCap bytes
  | .netsyncPayload _ msg => msg.length + 1 ≤ Config.bufCap
  | .hdrNew .. | .hdrSerialize _ | .usToSmpte _ | .smpteToUs _ | .smpteToQf _ | .qfToSmpte _ | .reservedOpcode _ => true
  | .msgMtcQuarter .. | .msgMtcFull .. | .msgMmcStop | .msgMmcPlay | .msgMmcLocate .. | .payloadHeader .. => true
  | .adapterMaster .. | .adapterSlave _ => true

/-- One of the four SysEx layouts, by length and bytes 3 to 6 (R86, rows Locate to Play). -/
def sysexRecognised (s : List Byte) : Bool :=
  (13 ≤ s.length && s[3]? == some 0x06 && s[4]? == some 0x44 && s[5]? == some 0x06 && s[6]? == some 0x01)
  || (10 ≤ s.length && s[3]? == some 0x01 && s[4]? == some 0x01)
  || (6 ≤ s.length && s[3]? == some 0x06 && (s[4]? == some 0x01 || s[4]? == some 0x02))

/-- The byte sequences that decode as `Other` of all of themselves (R86, the four rows `Other`): a lone 0xF1, a first
byte that is neither 0xF0 nor 0xF1, a failed SysEx check, or an unmatched SysEx whose first 0xF7 is its last byte. -/
def otherMessage : List Byte → Bool
  | [] => false
  | b :: rest =>
    if b = 0xF1 then rest.isEmpty
    else if b ≠ 0xF0 then true
    else
      let bytes := b :: rest
      let e := bytes.idxOf 0xF7
      let checked := 2 ≤ e && e < bytes.length && bytes[1]? == some 0x7F && bytes[2]? == some 0x7F
      !checked || (e + 1 == bytes.length && !sysexRecognised bytes)

/-- Every constraint on an instruction beyond its types. -/
def Instr.wellFormed (i : Instr) : Bool :=
  i.fits &&
  match i with
  | .reservedOpcode op => !listedOpcodes.contains op
  | .msgMtcFull h m s f => !([h, m, s, f].contains 0xF7)
  | .msgMmcLocate h m s f u => !([h, m, s, f, u].contains 0xF7)
  | .msgOther bytes => otherMessage bytes
  | _ => true

end Sys2Proof
end

