-- ==== Sys2Proof/Decode.lean ====
section
/-! DEFINITION. The decoder, total and rejecting by name, and after it the encoder, both from 30_encoding.md: requests
(R70 to R73), MIDI wire messages (R80 to R88, R114, R115), the header byte (R89) and the payload (R90). -/

namespace Sys2Proof

/-! ## Nibbles of a byte (R12, R53) -/

def highNibble (b : Byte) : Nibble := b.extractLsb' 4 4

def lowNibble (b : Byte) : Nibble := b.extractLsb' 0 4

/-- A byte from its nibbles, the first in bits 7:4. -/
def byteOfNibbles (high low : Nibble) : Byte := high ++ low

/-! ## The parser's decoder

`buf` is the whole operand and `len` the requested length (R65). -/

/-- R14: the least index at which the byte stands. -/
def indexOf (v : Byte) : List Byte → Option Nat
  | [] => none
  | b :: s => if b = v then some 0 else (indexOf v s).map (· + 1)

/-- R18: the requested bytes `buf[..len)`. -/
def requestedBytes (buf : List Byte) (len : Nat) : List Byte := buf.take len

/-- R114: up to the first 0xF7 anywhere in `buf`, else the requested bytes. -/
def commandSlice (buf : List Byte) (len : Nat) : List Byte :=
  match indexOf Config.sysexEnd buf with
  | some e => buf.take (e + 1)
  | none => requestedBytes buf len

/-- R115. -/
abbrev SysexOk (s : List Byte) : Prop :=
  3 ≤ s.length ∧ s[1]? = some Config.mfrId ∧ s[2]? = some Config.deviceId ∧ s.getLast? = some Config.sysexEnd

/-- R120. -/
abbrev IsLocate (s : List Byte) : Prop :=
  Config.lenLocate ≤ s.length ∧ s[3]? = some Config.subMmc ∧ s[4]? = some Config.mmcLocate ∧
    s[5]? = some Config.locateDataLen ∧ s[6]? = some Config.locateTarget

/-- R121. -/
abbrev IsFull (s : List Byte) : Prop :=
  Config.lenFull ≤ s.length ∧ s[3]? = some Config.subMtc ∧ s[4]? = some Config.subMtcFull

/-- R122. -/
abbrev IsStop (s : List Byte) : Prop :=
  Config.lenStop ≤ s.length ∧ s[3]? = some Config.subMmc ∧ s[4]? = some Config.mmcStop

/-- R123. -/
abbrev IsPlay (s : List Byte) : Prop :=
  Config.lenPlay ≤ s.length ∧ s[3]? = some Config.subMmc ∧ s[4]? = some Config.mmcPlay

/-- Step 5 of R110 on a checked slice: first match wins (R117). Every read carries the proof that its index lies in the
slice (R14). -/
def decodeChecked (s : List Byte) : WireMessage :=
  if h : IsLocate s then
    have n : 13 ≤ s.length := h.1
    .mmcLocate (s[7]'(by omega)) (s[8]'(by omega)) (s[9]'(by omega)) (s[10]'(by omega)) (s[11]'(by omega))
  else if h : IsFull s then
    have n : 10 ≤ s.length := h.1
    .mtcFull (s[5]'(by omega)) (s[6]'(by omega)) (s[7]'(by omega)) (s[8]'(by omega))
  else if IsStop s then .mmcStop
  else if IsPlay s then .mmcPlay
  else .other s

/-- Steps 2 to 5 of R110, for a request that step 1 lets through. -/
def decodeMessage (buf : List Byte) (len : Nat) (h : 1 ≤ len ∧ len ≤ buf.length) : WireMessage :=
  let first := buf[0]'(by omega)
  if first = Config.mtcQf then
    if two : len < 2 then .other (requestedBytes buf len)
    else
      let data := buf[1]'(by omega)
      .mtcQuarter (highNibble data) (lowNibble data)
  else if first ≠ Config.sysexStart then .other (requestedBytes buf len)
  else
    let s := commandSlice buf len
    if SysexOk s then decodeChecked s else .other (requestedBytes buf len)

/-- The row of opcode_table.json a decoded message belongs to. -/
def messageInstr : WireMessage → Instr
  | .mtcQuarter t v => .msgMtcQuarter t v
  | .mtcFull h m s f => .msgMtcFull h m s f
  | .mmcStop => .msgMmcStop
  | .mmcPlay => .msgMmcPlay
  | .mmcLocate h m s f u => .msgMmcLocate h m s f u
  | .other bytes => .msgOther bytes

/-- R89: the top nibble is `flags`, the bottom nibble `len`. -/
def headerOfByte (b : Byte) : PayloadHeader := ⟨highNibble b, lowNibble b⟩

/-! ## Operand shapes (R73) -/

/-- A number taken as a field of `w` bits. -/
def fieldOf? (w n : Nat) : Option (BitVec w) := if n < 2 ^ w then some (BitVec.ofNat w n) else none

def bytesOf? : List Nat → Option (List Byte)
  | [] => some []
  | n :: ns => (fieldOf? 8 n).bind fun b => (bytesOf? ns).map (b :: ·)

def headerOf? (flags len : Nat) : Option PayloadHeader :=
  (fieldOf? 4 flags).bind fun f => (fieldOf? 4 len).map (PayloadHeader.mk f ·)

/-- An event of one of the six variants (R25), by its tag (R35). -/
def eventOf? (tag : Nat) (fields : List Nat) : Option MidiEvent :=
  (bytesOf? fields).bind fun bytes =>
    match tag, bytes with
    | 0, [t, v] => some (.mtcQuarter t v)
    | 1, [h, m, s, f] => some (.mtcFull h m s f)
    | 2, [] => some .mmcStop
    | 3, [] => some .mmcPlay
    | 4, [h, m, s, f, u] => some (.mmcLocate h m s f u)
    | 5, bytes => some (.other bytes)
    | _, _ => none

def timecodeOf? (fields : List Nat) : Option MtcFullFrame :=
  (bytesOf? fields).bind fun bytes =>
    match bytes with
    | [h, m, s, f] => some ⟨h, m, s, f⟩
    | _ => none

def quarterFrameOf? (q : Nat × Nat) : Option MtcQuarterFrame :=
  (fieldOf? 8 q.1).bind fun t => (fieldOf? 8 q.2).map (MtcQuarterFrame.mk t ·)

def quarterFramesOf? : List (Nat × Nat) → Option (List MtcQuarterFrame)
  | [] => some []
  | q :: qs => (quarterFrameOf? q).bind fun a => (quarterFramesOf? qs).map (a :: ·)

/-- R29: exactly 8 entries, any other count is no quarter-frame array. -/
def quarterArrayOf? (frames : List (Nat × Nat)) : Option QuarterFrameArray :=
  (quarterFramesOf? frames).bind fun qs =>
    match qs with
    | [a, b, c, d, e, f, g, h] => some ⟨a, b, c, d, e, f, g, h⟩
    | _ => none

/-- The operands of each opcode in the order of R70's table; none where their shape is another. -/
def operandsOf? (op : Byte) (args : List Operand) : Option Instr :=
  match args with
  | [.num a, .num b] =>
    if op = 0x01 then (fieldOf? 8 a).bind fun f => (fieldOf? 8 b).map (Instr.hdrNew f ·) else none
  | [.header f l] => if op = 0x02 then (headerOf? f l).map .hdrSerialize else none
  | [.bytes s] => if op = 0x03 then some (.hdrParse s) else if op = 0x31 then some (.slaveFlow s) else none
  | [.bytes s, .num n] => if op = 0x10 then some (.midiParse s n) else none
  | [.event t fs] =>
    if op = 0x11 then (eventOf? t fs).map .midiBuild
    else if op = 0x30 then (eventOf? t fs).map .masterFlow else none
  | [.num n] => if op = 0x20 then (fieldOf? 64 n).map .usToSmpte else none
  | [.timecode fs] =>
    if op = 0x21 then (timecodeOf? fs).map .smpteToUs
    else if op = 0x22 then (timecodeOf? fs).map .smpteToQf else none
  | [.quarterFrames qs] => if op = 0x23 then (quarterArrayOf? qs).map .qfToSmpte else none
  | _ => none

/-! ## The decoder -/

/-- What the encoding says, before the bound on byte sequences. -/
def readEncoded : Encoded → Except Reject Instr
  | .request r =>
    if listedOpcodes.contains r.op then
      match operandsOf? r.op r.args with
      | some i => .ok i
      | none => .error .operandShape
    else .ok (.reservedOpcode r.op)
  | .wire bytes =>
    if h : 1 ≤ bytes.length then .ok (messageInstr (decodeMessage bytes bytes.length ⟨h, Nat.le_refl _⟩))
    else .error .emptyMessage
  | .header b => .ok (.payloadHeader (highNibble b) (lowNibble b))
  | .payload [] => .error .emptyPayload
  | .payload (b :: msg) => .ok (.netsyncPayload (headerOfByte b) msg)
  | .call (.master d cap) => .ok (.adapterMaster d cap)
  | .call (.slave p) => .ok (.adapterSlave p)

/-- R66 on the bytes presented: a wire message is MIDI_PARSE's whole operand (log 7), however few of its bytes the decoded
row keeps. The byte sequences of the other forms are operands of the decoded instruction itself. -/
def Encoded.fits : Encoded → Bool
  | .wire bytes => fitsBufCap bytes
  | .request _ | .header _ | .payload _ | .call _ => true

/-- R66: what is longer than `BUF_CAP` is no instruction, whatever a rule would read from it. -/
def decode (w : Encoded) : Except Reject Instr :=
  match readEncoded w with
  | .ok i => if w.fits && i.fits then .ok i else .error .operandTooLong
  | .error e => .error e

/-! ## The encoder -/

def byteOfHeader (h : PayloadHeader) : Byte := byteOfNibbles h.flags h.len

/-- An event operand by R35's tags and R25's field order. -/
def operandOfEvent : MidiEvent → Operand
  | .mtcQuarter t v => .event 0 [t.toNat, v.toNat]
  | .mtcFull h m s f => .event 1 [h.toNat, m.toNat, s.toNat, f.toNat]
  | .mmcStop => .event 2 []
  | .mmcPlay => .event 3 []
  | .mmcLocate h m s f u => .event 4 [h.toNat, m.toNat, s.toNat, f.toNat, u.toNat]
  | .other bytes => .event 5 (bytes.map BitVec.toNat)

def operandOfTimecode (f : MtcFullFrame) : Operand :=
  .timecode [f.hours.toNat, f.minutes.toNat, f.seconds.toNat, f.frames.toNat]

/-- The array's entries in index order. -/
def quarterFrameList (q : QuarterFrameArray) : List MtcQuarterFrame := [q.q0, q.q1, q.q2, q.q3, q.q4, q.q5, q.q6, q.q7]

def operandOfQuarterFrames (q : QuarterFrameArray) : Operand :=
  .quarterFrames ((quarterFrameList q).map fun a => (a.frameType.toNat, a.value.toNat))

/-- The bytes of a message row, R81 to R85. -/
def messageBytes : WireMessage → List Byte
  | .mtcQuarter t v => [0xF1, byteOfNibbles t v]
  | .mtcFull h m s f => [0xF0, 0x7F, 0x7F, 0x01, 0x01, h, m, s, f, 0xF7]
  | .mmcStop => [0xF0, 0x7F, 0x7F, 0x06, 0x01, 0xF7]
  | .mmcPlay => [0xF0, 0x7F, 0x7F, 0x06, 0x02, 0xF7]
  | .mmcLocate h m s f u => [0xF0, 0x7F, 0x7F, 0x06, 0x44, 0x06, 0x01, h, m, s, f, u, 0xF7]
  | .other bytes => bytes

def encode : Instr → Encoded
  | .hdrNew flags len => .request ⟨0x01, [.num flags.toNat, .num len.toNat]⟩
  | .hdrSerialize h => .request ⟨0x02, [.header h.flags.toNat h.len.toNat]⟩
  | .hdrParse buf => .request ⟨0x03, [.bytes buf]⟩
  | .midiParse buf len => .request ⟨0x10, [.bytes buf, .num len]⟩
  | .midiBuild e => .request ⟨0x11, [operandOfEvent e]⟩
  | .usToSmpte us => .request ⟨0x20, [.num us.toNat]⟩
  | .smpteToUs f => .request ⟨0x21, [operandOfTimecode f]⟩
  | .smpteToQf f => .request ⟨0x22, [operandOfTimecode f]⟩
  | .qfToSmpte q => .request ⟨0x23, [operandOfQuarterFrames q]⟩
  | .masterFlow e => .request ⟨0x30, [operandOfEvent e]⟩
  | .slaveFlow p => .request ⟨0x31, [.bytes p]⟩
  | .reservedOpcode op => .request ⟨op, []⟩
  | .msgMtcQuarter t v => .wire (messageBytes (.mtcQuarter t v))
  | .msgMtcFull h m s f => .wire (messageBytes (.mtcFull h m s f))
  | .msgMmcStop => .wire (messageBytes .mmcStop)
  | .msgMmcPlay => .wire (messageBytes .mmcPlay)
  | .msgMmcLocate h m s f u => .wire (messageBytes (.mmcLocate h m s f u))
  | .msgOther bytes => .wire bytes
  | .payloadHeader flags len => .header (byteOfNibbles flags len)
  | .netsyncPayload h msg => .payload (byteOfHeader h :: msg)
  | .adapterMaster d cap => .call (.master d cap)
  | .adapterSlave p => .call (.slave p)

/-! ## Words of opcode_table.json

The table numbers a row's bits as one number whose top byte is the first on the wire (MSG_MTC_QUARTER has 0xF1 in bits
15:8). A row of 8 bits is a request's opcode, a wider row a wire message. DESIGN CHOICE, log 5. -/

/-- The operands of zeros that go with an opcode: numbers 0, the empty byte sequence, the event of tag 0. -/
def zeroOperands (op : Byte) : List Operand :=
  if op = 0x01 then [.num 0, .num 0]
  else if op = 0x02 then [.header 0 0]
  else if op = 0x03 ∨ op = 0x31 then [.bytes []]
  else if op = 0x10 then [.bytes [], .num 0]
  else if op = 0x11 ∨ op = 0x30 then [.event 0 [0, 0]]
  else if op = 0x20 then [.num 0]
  else if op = 0x21 ∨ op = 0x22 then [.timecode [0, 0, 0, 0]]
  else if op = 0x23 then [.quarterFrames (List.replicate 8 (0, 0))]
  else []

/-- The `n` bytes of a word, the most significant first. -/
def wordBytes : Nat → Nat → List Byte
  | 0, _ => []
  | n + 1, w => BitVec.ofNat 8 (w >>> (8 * n)) :: wordBytes n w

def tableEncoded (nbits w : Nat) : Encoded :=
  if nbits ≤ 8 then .request ⟨BitVec.ofNat 8 w, zeroOperands (BitVec.ofNat 8 w)⟩
  else .wire (wordBytes ((nbits + 7) / 8) w)

def decodeTableWord (nbits w : Nat) : Option Instr :=
  match decode (tableEncoded nbits w) with
  | .ok i => some i
  | .error _ => none

end Sys2Proof
end

