-- ==== Sys2Proof/Machine/State.lean ====
section
/-! DEFINITION. The state: the block's REQ, BUSY and RSP (10_state.md R32), and beside them what the other agents of the
spec hold, the host (R8) and the adapter's caller (45_host_adapter.md). -/

namespace Sys2Proof.Machine

/-! ## Responses -/

/-- R200: the closed set of error kinds and the interface's REFUSED, exactly ten. -/
inductive ErrorKind where
  | emptyBuffer
  | bufferTooSmall (requested available : Nat)
  | insufficientHeaderData
  /-- Reserved, raised by no operation (R203). -/
  | invalidMidiData (position : Nat) (byte : Byte)
  /-- Reserved, raised by no operation (R172, R203). -/
  | incompleteFrame
  | invalidFrameType
  | invalidValue
  | invalidMasterEvent
  | invalidSlaveEvent
  /-- The interface's own verdict (R204). -/
  | refused
deriving DecidableEq, Repr

/-- The "result on OK" column of R70. -/
inductive Result where
  | header (h : PayloadHeader)
  | bytes (s : List Byte)
  | event (e : MidiEvent)
  | us (us : Microseconds)
  | timecode (f : MtcFullFrame)
  | quarterFrames (q : QuarterFrameArray)
deriving DecidableEq, Repr

/-- R31, R71: a result or one error kind, never both. -/
inductive Response where
  | ok (r : Result)
  | err (k : ErrorKind)
deriving DecidableEq, Repr

/-! ## The host and the adapter's caller -/

/-- R194: the adapter's error codes. -/
inductive AdapterCode where
  | success
  | invalidMasterEvent
  | invalidSlaveEvent
  | bufferTooSmall
  /-- For a null pointer of the caller; no model without pointers produces it (R198). -/
  | nullPointer
  | invalidEventType
deriving DecidableEq, Repr

/-- R196: "the numeric error code and, for master, the actual bytes written". -/
structure CallReturn where
  code : AdapterCode
  written : Nat
deriving DecidableEq, Repr

/-- What the host can do to the block and the adapter. DESIGN CHOICE, log 2. -/
inductive HostAction where
  /-- Issue a request; held while BUSY = 1 (R234). -/
  | issue (r : Request)
  /-- Take the response; held while BUSY = 1 (R214). -/
  | take
  /-- Assert reset (R230, R231). -/
  | reset
  /-- Call the adapter (R196, R197). -/
  | call (c : Call)
deriving DecidableEq, Repr

/-! ## State -/

/-- `req`, `busy` and `rsp` are R32's REQ, BUSY and RSP, all the state the spec gives the block. The other fields are the
model's, for the agents outside the block: log 2 and log 9. -/
structure State where
  req : Option Request
  busy : Bool
  rsp : Option Response
  /-- The host's further actions, oldest first. -/
  host : List HostAction
  /-- The responses the host has taken, oldest first. -/
  taken : List Response
  /-- The caller's output buffer, as far as the adapter has written it (R196). -/
  callerBuf : List Byte
  /-- The caller's descriptor (R197). -/
  callerDesc : Descriptor
  /-- What the last adapter call returned. -/
  ret : Option CallReturn
deriving DecidableEq, Repr

/-- Why a step can stop. The spec's block has no fault state (R238); this one is the model's. -/
inductive Fault where
  /-- BUSY = 1 while REQ is empty. Raised by the step alone, in a state that no run reaches (R32: BUSY is 1 "while `REQ`
  holds a request not yet answered"). Safe: the machine stops where the spec says nothing. Log 13. -/
  | busyWithoutRequest
deriving DecidableEq, Repr

/-- Why an instruction has no meaning. -/
inductive Refusal where
  /-- Raised by an arm of `exec` whose instruction has no meaning in this model; no arm is one. Safe: the machine stops. -/
  | notModelled (mnemonic : String)
deriving DecidableEq, Repr

/-- R34, R230: BUSY = 0, REQ and RSP empty. The other agents' fields have no reset value in the spec: DESIGN CHOICE, the
host has nothing to do and has taken nothing (log 2), the caller's output is empty and zero, no call has returned
(log 9). -/
def State.reset : State where
  req := none
  busy := false
  rsp := none
  host := []
  taken := []
  callerBuf := []
  callerDesc := ⟨0, ⟨0, 0, 0, 0, 0, 0, 0, 0⟩, 0⟩
  ret := none

end Sys2Proof.Machine
end

