-- ==== Sys2Proof/Machine/Flags.lean ====
section
/-! DEFINITION. The numbers that name outcomes, and the header's flags. The block has no condition codes; the header's
4-bit `flags` is its only flag-like item (10_state.md R24). -/

namespace Sys2Proof.Machine

/-- HDR_NEW's mask `& 0x0F` (R23, R100). -/
def maskNibble (b : Byte) : Nibble := lowNibble (b &&& 0x0F)

/-- MASTER_FLOW writes header flags 0, always (R24, R180). -/
def masterFlags : Byte := 0

/-- R201: the status of each error kind. -/
def errorStatus : ErrorKind → Byte
  | .emptyBuffer => 0x01
  | .bufferTooSmall .. => 0x02
  | .insufficientHeaderData => 0x03
  | .invalidMidiData .. => 0x04
  | .incompleteFrame => 0x10
  | .invalidFrameType => 0x11
  | .invalidValue => 0x12
  | .invalidMasterEvent => 0x20
  | .invalidSlaveEvent => 0x21
  | .refused => 0xFF

/-- R71, R201: the response's 8-bit status, OK = 0x00. -/
def statusOf : Response → Byte
  | .ok _ => 0x00
  | .err k => errorStatus k

/-- R194: the adapter's code numbers. -/
def adapterCodeNumber : AdapterCode → Nat
  | .success => 0
  | .invalidMasterEvent => 1
  | .invalidSlaveEvent => 2
  | .bufferTooSmall => 3
  | .nullPointer => 4
  | .invalidEventType => 5

/-- R194: "a function mapping each code to a fixed human-readable string"; the strings are uninterpreted. -/
def adapterCodeString (c : AdapterCode) : String := Config.adapterString (adapterCodeNumber c)

/-- R195: the function reporting the maximum buffer size. -/
def adapterMaxBufferSize : Nat := Config.adapterMaxBuffer

end Sys2Proof.Machine
end

