-- ==== Sys2Proof/Machine/Ops.lean ====
section
/-! DEFINITION. The named operations on the state: the interface's (accepting a request, answering it, reset, the host's
take) and the adapter's writes to its caller. -/

namespace Sys2Proof.Machine

/-! ## The block's interface (R32) -/

/-- R32: the block writes RSP and sets BUSY to 0; REQ no longer holds a request. -/
def State.respond (s : State) (r : Response) : State := { s with req := none, busy := false, rsp := some r }

/-- `raise E` of R15, the one way an operation fails. R212: an error saves nothing, masks nothing and transfers control
nowhere; it is the response with that kind, and the block is idle after it. R213: so there is no return from it. -/
def State.raise (s : State) (k : ErrorKind) : State := s.respond (.err k)

/-- R204: the interface's own verdict, before any rule of any operation. -/
def State.refuse (s : State) : State := s.raise .refused

/-- An operation's outcome as its response: `return v` or `raise E` (R15). -/
def responseOf : Except ErrorKind Result → Response
  | .ok r => .ok r
  | .error k => .err k

/-- One operation answered: the block's whole effect on the state (R55). -/
def State.complete (s : State) (o : Except ErrorKind Result) : State := s.respond (responseOf o)

/-- R32: a request accepted while BUSY = 0. RSP was held until the host "issues the next request", log 18. -/
def State.accept (s : State) (r : Request) : State := { s with req := some r, busy := true, rsp := none }

/-- R230, R231: the block after reset; a request in flight is abandoned without a response. -/
def State.resetBlock (s : State) : State := { s with req := none, busy := false, rsp := none }

/-- The host takes the response (R32), and RSP is empty after it: DESIGN CHOICE, log 25. Before the first response it gets
none (R34). -/
def State.takeResponse (s : State) : State :=
  match s.rsp with
  | some r => { s with rsp := none, taken := s.taken ++ [r] }
  | none => s

/-- The host has no action left of those it has done. -/
def State.withHost (s : State) (rest : List HostAction) : State := { s with host := rest }

/-! ## The adapter's caller (R196, R197, R199) -/

/-- R32: the adapter, reading the response of the request it issued, takes it as a host does, and RSP is empty
after it: DESIGN CHOICE, log 8 and log 25. -/
def State.adapterTakes (s : State) : State := { s with req := none, busy := false, rsp := none }

/-- The payload written at the start of the caller's buffer; the bytes after it stay. -/
def writtenOver (p buf : List Byte) : List Byte := p ++ buf.drop p.length

def State.writeCallerBuf (s : State) (p : List Byte) : State := { s with callerBuf := writtenOver p s.callerBuf }

def State.writeCallerDesc (s : State) (d : Descriptor) : State := { s with callerDesc := d }

def State.returnCall (s : State) (code : AdapterCode) (written : Nat) : State := { s with ret := some ⟨code, written⟩ }

/-! ## What moves next

R8: the host and the block. While BUSY = 1 only a reset precedes the block's completion (R231, R234); while BUSY = 0 the
host does its oldest action, and with none left nothing moves (log 2, 3, 12, 20). -/

/-- The next move: an encoded instruction to run in a state, a finished state, or a stop. -/
inductive Move where
  | run (w : Encoded) (s : State)
  | done (s : State)
  | stop (f : Fault)
deriving DecidableEq, Repr

def blockMove (s : State) : Move :=
  match s.req with
  | some r => .run (.request r) s
  | none => .stop .busyWithoutRequest

def nextMove (s : State) : Move :=
  match s.host with
  | .reset :: rest => .done (s.withHost rest).resetBlock
  | .issue r :: rest => if s.busy then blockMove s else .done ((s.withHost rest).accept r)
  | .take :: rest => if s.busy then blockMove s else .done (s.withHost rest).takeResponse
  | .call c :: rest => if s.busy then blockMove s else .run (.call c) (s.withHost rest)
  | [] => if s.busy then blockMove s else .done s

/-! ## Placing an instruction for the host's question -/

/-- The request by which a table word comes to the block: its own opcode, or MIDI_PARSE of the whole message (log 4). -/
def requestOfTable (nbits w : Nat) : Request :=
  if nbits ≤ 8 then ⟨BitVec.ofNat 8 w, zeroOperands (BitVec.ofNat 8 w)⟩
  else ⟨0x10, [.bytes (wordBytes ((nbits + 7) / 8) w), .num ((nbits + 7) / 8)]⟩

/-- Host actions that would come before the block's completion. -/
def dropResets : List HostAction → List HostAction
  | .reset :: rest => dropResets rest
  | other => other

/-- The request in flight, with no reset asserted before it completes. -/
def State.placeRequest (s : State) (r : Request) : State := (s.accept r).withHost (dropResets s.host)

end Sys2Proof.Machine
end

