-- ==== Sys2Proof/Machine/Header.lean ====
section
/-! DEFINITION. The payload header operations, 40_header.md. -/

namespace Sys2Proof.Machine

/-- R100. -/
def hdrNew (flags len : Byte) : PayloadHeader := ⟨maskNibble flags, maskNibble len⟩

/-- R101: one byte, flags in bits 7:4. -/
def hdrSerialize (h : PayloadHeader) : List Byte := [byteOfHeader h]

/-- R102: only the first byte is read. -/
def hdrParse : List Byte → Except ErrorKind PayloadHeader
  | [] => .error .insufficientHeaderData
  | b :: _ => .ok (headerOfByte b)

/-- HDR_NEW, R100. -/
def execHdrNew (flags len : Byte) (s : State) : Host.Outcome State Fault Refusal :=
  .next (s.complete (.ok (.header (hdrNew flags len))))

/-- HDR_SERIALIZE, R101. -/
def execHdrSerialize (h : PayloadHeader) (s : State) : Host.Outcome State Fault Refusal :=
  .next (s.complete (.ok (.bytes (hdrSerialize h))))

/-- HDR_PARSE, R102. -/
def execHdrParse (buf : List Byte) (s : State) : Host.Outcome State Fault Refusal :=
  .next (s.complete ((hdrParse buf).map .header))

end Sys2Proof.Machine
end

