-- ==== Sys2Proof/Machine/MidiBuild.lean ====
section
/-! DEFINITION. MIDI_BUILD, 42_midi_build.md. -/

namespace Sys2Proof.Machine

/-- R140: `(msg_type << 4)_8 | (value & 0x0F)`, the shift truncated to one byte. -/
def quarterDataByte (msgType value : Byte) : Byte := (msgType <<< 4) ||| (value &&& 0x0F)

/-- R139 to R146; never fails. A Locate's subframe is not read (R145). -/
def midiBuild : MidiEvent → List Byte
  | .mtcQuarter t v => [Config.mtcQf, quarterDataByte t v]
  | .mtcFull h m s f =>
    [Config.sysexStart, Config.mfrId, Config.deviceId, Config.subMtc, Config.subMtcFull, h, m, s, f, Config.sysexEnd]
  | .mmcStop => [Config.sysexStart, Config.mfrId, Config.deviceId, Config.subMmc, Config.mmcStop, Config.sysexEnd]
  | .mmcPlay => [Config.sysexStart, Config.mfrId, Config.deviceId, Config.subMmc, Config.mmcPlay, Config.sysexEnd]
  | .mmcLocate h m s f _ =>
    [Config.sysexStart, Config.mfrId, Config.deviceId, Config.subMmc, Config.mmcLocate, Config.locateDataLen,
      Config.locateTarget, h, m, s, f, 0x00, Config.sysexEnd]
  | .other bytes => bytes

/-- MIDI_BUILD, R139. -/
def execMidiBuild (e : MidiEvent) (s : State) : Host.Outcome State Fault Refusal :=
  .next (s.complete (.ok (.bytes (midiBuild e))))

end Sys2Proof.Machine
end

