-- ==== Sys2Proof/Machine/Operands.lean ====
section
/-! DEFINITION. Operand forms: events and their tags, wire lengths, what a decoded message means as an event, and the
adapter's descriptor (45_host_adapter.md R191 to R193). -/

namespace Sys2Proof.Machine

/-- A nibble held in an 8-bit field (R22, R26). -/
def widenNibble (n : Nibble) : Byte := n.setWidth 8

/-- R111, R120 to R125: the event of a decoded message. A Locate's wire subframe is read and discarded (R124). -/
def eventOfMessage : WireMessage → MidiEvent
  | .mtcQuarter t v => .mtcQuarter (widenNibble t) (widenNibble v)
  | .mtcFull h m s f => .mtcFull h m s f
  | .mmcStop => .mmcStop
  | .mmcPlay => .mmcPlay
  | .mmcLocate h m s f _ => .mmcLocate h m s f 0
  | .other bytes => .other bytes

/-- R35: the tag of each variant. -/
def eventTag : MidiEvent → Nat
  | .mtcQuarter .. => 0
  | .mtcFull .. => 1
  | .mmcStop => 2
  | .mmcPlay => 3
  | .mmcLocate .. => 4
  | .other _ => 5

/-- R180: the fixed wire length of each variant; `Other` has none. -/
def fixedLength : MidiEvent → Option Nat
  | .mtcQuarter .. => some Config.lenQf
  | .mtcFull .. => some Config.lenFull
  | .mmcStop => some Config.lenStop
  | .mmcPlay => some Config.lenPlay
  | .mmcLocate .. => some Config.lenLocate
  | .other _ => none

/-- R192: the data length a discriminant requires; none for an unknown discriminant. -/
def requiredLength (kind : Byte) : Option Byte :=
  if kind = 0 then some 2
  else if kind = 1 then some 4
  else if kind = 2 then some 0
  else if kind = 3 then some 0
  else if kind = 4 then some 4
  else none

/-- R192, DESC_TO_EVENT; none is a rejection. -/
def eventOfDescriptor (d : Descriptor) : Option MidiEvent :=
  if requiredLength d.kind = some d.length then
    if d.kind = 0 then some (.mtcQuarter d.data.d0 d.data.d1)
    else if d.kind = 1 then some (.mtcFull d.data.d0 d.data.d1 d.data.d2 d.data.d3)
    else if d.kind = 2 then some .mmcStop
    else if d.kind = 3 then some .mmcPlay
    else some (.mmcLocate d.data.d0 d.data.d1 d.data.d2 d.data.d3 0)
  else none

/-- R193, EVENT_TO_DESC: unused data bytes are 0, a Locate's subframe is not carried, `Other` is rejected. -/
def descriptorOfEvent : MidiEvent → Option Descriptor
  | .mtcQuarter t v => some ⟨0, ⟨t, v, 0, 0, 0, 0, 0, 0⟩, 2⟩
  | .mtcFull h m s f => some ⟨1, ⟨h, m, s, f, 0, 0, 0, 0⟩, 4⟩
  | .mmcStop => some ⟨2, ⟨0, 0, 0, 0, 0, 0, 0, 0⟩, 0⟩
  | .mmcPlay => some ⟨3, ⟨0, 0, 0, 0, 0, 0, 0, 0⟩, 0⟩
  | .mmcLocate h m s f _ => some ⟨4, ⟨h, m, s, f, 0, 0, 0, 0⟩, 4⟩
  | .other _ => none

end Sys2Proof.Machine
end

