-- ==== Sys2Proof/Machine/MidiParse.lean ====
section
/-! DEFINITION. MIDI_PARSE, 41_midi_parse.md. Its steps 2 to 5 are the decoder's `decodeMessage`. -/

namespace Sys2Proof.Machine

/-- R110, R127: `EmptyBuffer` before `BufferTooSmall`, then the message's event. -/
def midiParse (buf : List Byte) (len : Nat) : Except ErrorKind MidiEvent :=
  if empty : len = 0 ∨ buf.length = 0 then .error .emptyBuffer
  else if small : buf.length < len then .error (.bufferTooSmall len buf.length)
  else .ok (eventOfMessage (decodeMessage buf len ⟨by omega, by omega⟩))

/-- MIDI_PARSE, R110. -/
def execMidiParse (buf : List Byte) (len : Nat) (s : State) : Host.Outcome State Fault Refusal :=
  .next (s.complete ((midiParse buf len).map .event))

end Sys2Proof.Machine
end

