-- ==== Sys2Proof/Machine/Flow.lean ====
section
/-! DEFINITION. The netsync flows, 44_netsync_flow.md. -/

namespace Sys2Proof.Machine

/-- R180: the header of the variant's fixed length, then the built message. -/
def masterFlow (e : MidiEvent) : Except ErrorKind (List Byte) :=
  match fixedLength e with
  | none => .error .invalidMasterEvent
  | some n => .ok (hdrSerialize (hdrNew masterFlags (BitVec.ofNat 8 n)) ++ midiBuild e)

/-- R183, R184: every failure collapses to `InvalidSlaveEvent`; all bytes after the header are the parser's buffer. -/
def slaveFlow (p : List Byte) : Except ErrorKind MidiEvent :=
  if p.length < 3 then .error .invalidSlaveEvent
  else
    match hdrParse p with
    | .error _ => .error .invalidSlaveEvent
    | .ok h =>
      match midiParse p.tail h.len.toNat with
      | .error _ => .error .invalidSlaveEvent
      | .ok e => .ok e

/-- MASTER_FLOW, R180. -/
def execMasterFlow (e : MidiEvent) (s : State) : Host.Outcome State Fault Refusal :=
  .next (s.complete ((masterFlow e).map .bytes))

/-- SLAVE_FLOW, R183. -/
def execSlaveFlow (p : List Byte) (s : State) : Host.Outcome State Fault Refusal :=
  .next (s.complete ((slaveFlow p).map .event))

end Sys2Proof.Machine
end

