-- ==== Sys2Proof/Machine/Adapter.lean ====
section
/-! DEFINITION. The host adapter's two entry points, 45_host_adapter.md. A call issues one block operation through the
interface and takes its response, all in one step (log 8). A call made while BUSY = 1 is held like any request (R234). -/

namespace Sys2Proof.Machine

/-- What the interface answers to MASTER_FLOW of an event, the bound of R66 first. -/
def masterRequest (e : MidiEvent) : Except ErrorKind (List Byte) :=
  if e.fits then masterFlow e else .error .refused

/-- What the interface answers to SLAVE_FLOW of a payload, the bound of R66 first (log 10). -/
def slaveRequest (p : List Byte) : Except ErrorKind MidiEvent :=
  if fitsBufCap p then slaveFlow p else .error .refused

/-- R196, after the descriptor is accepted. Caller output is written only on code 0 (R199). -/
def adapterMaster (e : MidiEvent) (cap : Nat) (s : State) : State :=
  match masterRequest e with
  | .error _ => s.adapterTakes.returnCall .invalidMasterEvent 0
  | .ok p =>
    if cap < p.length then s.adapterTakes.returnCall .bufferTooSmall 0
    else (s.adapterTakes.writeCallerBuf p).returnCall .success p.length

/-- R197. -/
def adapterSlave (p : List Byte) (s : State) : State :=
  match slaveRequest p with
  | .error _ => s.adapterTakes.returnCall .invalidSlaveEvent 0
  | .ok e =>
    match descriptorOfEvent e with
    | none => s.adapterTakes.returnCall .invalidEventType 0
    | some d => (s.adapterTakes.writeCallerDesc d).returnCall .success 0

/-- ADAPTER_MASTER, R196: a rejected descriptor issues nothing and reports code 5. -/
def execAdapterMaster (d : Descriptor) (cap : Nat) (s : State) : Host.Outcome State Fault Refusal :=
  if s.busy then .next s
  else
    match eventOfDescriptor d with
    | none => .next (s.returnCall .invalidEventType 0)
    | some e => .next (adapterMaster e cap s)

/-- ADAPTER_SLAVE, R197. -/
def execAdapterSlave (p : List Byte) (s : State) : Host.Outcome State Fault Refusal :=
  if s.busy then .next s else .next (adapterSlave p s)

end Sys2Proof.Machine
end

