-- ==== Sys2Proof/Machine/Binary64.lean ====
section
/-! DEFINITION. The binary64 notation of 00_scope.md R16, for the non-negative values US_TO_SMPTE meets: rounding to a
53-bit significand, to nearest with ties to even. All values met lie between 2^-16 and 2^70 or are 0, far inside the
format's exponent range, so neither overflow nor a subnormal occurs (log 11). -/

namespace Sys2Proof.Machine

/-- The binary64 value `sig * 2^exp`. -/
structure F64 where
  sig : Nat
  exp : Int
deriving DecidableEq, Repr

/-- A value as a fraction of naturals. -/
def f64Num (x : F64) : Nat := x.sig * 2 ^ x.exp.toNat

def f64Den (x : F64) : Nat := 2 ^ (-x.exp).toNat

/-- The quotient of naturals rounded to nearest, ties to even. -/
def roundNearestEven (n d : Nat) : Nat :=
  let k := n / d
  let r := n % d
  if 2 * r < d then k
  else if d < 2 * r then k + 1
  else if k % 2 = 0 then k else k + 1

/-- The exponent `e` with `2^e <= p/q < 2^(e+1)`, for positive `p` and `q`. -/
def binadeOf (p q : Nat) : Int :=
  let a : Int := (Nat.log2 p : Int) - (Nat.log2 q : Int)
  if q * 2 ^ a.toNat ≤ p * 2 ^ (-a).toNat then a else a - 1

/-- The binary64 value nearest to `p/q`: 53 significant bits. -/
def f64OfRatio (p q : Nat) : F64 :=
  if p = 0 then ⟨0, 0⟩
  else
    let e := binadeOf p q - 52
    ⟨roundNearestEven (p * 2 ^ (-e).toNat) (q * 2 ^ e.toNat), e⟩

/-- `f64(n)`. -/
def f64OfNat (n : Nat) : F64 := f64OfRatio n 1

/-- `a *f b`. -/
def f64Mul (a b : F64) : F64 := f64OfRatio (f64Num a * f64Num b) (f64Den a * f64Den b)

/-- `a /f b`, for b not 0. -/
def f64Div (a b : F64) : F64 := f64OfRatio (f64Num a * f64Den b) (f64Den a * f64Num b)

/-- `nat(round_half_away(x))`. -/
def roundHalfAway (x : F64) : Nat := (2 * f64Num x + f64Den x) / (2 * f64Den x)

end Sys2Proof.Machine
end

