-- ==== Sys2Proof/Machine/Timecode.lean ====
section
/-! DEFINITION. The timecode converter, 43_timecode.md. -/

namespace Sys2Proof.Machine

/-! ## Microseconds and timecode -/

/-- R150: the frame number, in binary64 from left to right, then rounded half away from zero. -/
def framenumOfUs (us : Microseconds) : Nat :=
  let t := f64Mul (f64OfNat us.toNat) (f64OfNat Config.fps)
  let t := f64Div t (f64OfNat 1)
  let t := f64Div t (f64OfNat Config.usPerS)
  roundHalfAway t

/-- R150: the fields of a frame number; hours wrap at 24. -/
def timecodeOfFramenum (n : Nat) : MtcFullFrame where
  hours := BitVec.ofNat 8 (n / 30 / 3600 % 24)
  minutes := BitVec.ofNat 8 (n / 30 / 60 % 60)
  seconds := BitVec.ofNat 8 (n / 30 % 60)
  frames := BitVec.ofNat 8 (n % 30)

def usToSmpte (us : Microseconds) : MtcFullFrame := timecodeOfFramenum (framenumOfUs us)

/-- R160: the fields weighted as written, not range-checked. -/
def framenumOfTimecode (f : MtcFullFrame) : Nat :=
  f.hours.toNat * 3600 * 30 + f.minutes.toNat * 60 * 30 + f.seconds.toNat * 30 + f.frames.toNat

/-- R160: multiply before the truncating division; the result is at most 933_563_500_000, so 64 bits hold it. -/
def smpteToUs (f : MtcFullFrame) : Microseconds :=
  BitVec.ofNat 64 (framenumOfTimecode f * Config.usPerS / Config.fps)

/-! ## Quarter frames -/

/-- R165: bits 3:0 and 7:4 of a field. -/
def fieldLow (b : Byte) : Byte := b &&& 0x0F

def fieldHigh (b : Byte) : Byte := b >>> 4

/-- R165, R166: frame type 7 carries the rate code 0b11 in bits 2:1 and hours bit 4 in bit 0. -/
def hoursHighValue (hours : Byte) : Byte := (0b11 <<< 1) ||| ((hours >>> 4) &&& 0x01)

/-- R165 with the table of R166. -/
def smpteToQf (f : MtcFullFrame) : QuarterFrameArray where
  q0 := ⟨0, fieldLow f.frames⟩
  q1 := ⟨1, fieldHigh f.frames⟩
  q2 := ⟨2, fieldLow f.seconds⟩
  q3 := ⟨3, fieldHigh f.seconds⟩
  q4 := ⟨4, fieldLow f.minutes⟩
  q5 := ⟨5, fieldHigh f.minutes⟩
  q6 := ⟨6, fieldLow f.hours⟩
  q7 := ⟨7, hoursHighValue f.hours⟩

/-- R170, R211: one ascending pass from index `i`, type before value at each index; the first failing check. -/
def quarterFrameScan (i : Nat) : List MtcQuarterFrame → Option ErrorKind
  | [] => none
  | q :: qs =>
    if q.frameType.toNat ≠ i then some .invalidFrameType
    else if 15 < q.value.toNat then some .invalidValue
    else quarterFrameScan (i + 1) qs

/-- R170: a field from its low and high nibble. -/
def joinNibbles (low high : Byte) : Byte := low ||| (high <<< 4)

/-- R170: bit 3 of value 7 is not examined. -/
def rateOf (v7 : Byte) : Nat := (v7.toNat >>> 1) &&& 0x03

/-- R170: the reassembled fields, before the range checks. -/
def reassemble (q : QuarterFrameArray) : MtcFullFrame where
  frames := joinNibbles q.q0.value q.q1.value
  seconds := joinNibbles q.q2.value q.q3.value
  minutes := joinNibbles q.q4.value q.q5.value
  hours := joinNibbles q.q6.value (q.q7.value &&& 0x01)

/-- R28: the SMPTE ranges. -/
abbrev InRange (f : MtcFullFrame) : Prop :=
  f.frames.toNat ≤ 29 ∧ f.seconds.toNat ≤ 59 ∧ f.minutes.toNat ≤ 59 ∧ f.hours.toNat ≤ 23

def qfToSmpte (q : QuarterFrameArray) : Except ErrorKind MtcFullFrame :=
  match quarterFrameScan 0 (quarterFrameList q) with
  | some k => .error k
  | none =>
    if InRange (reassemble q) ∧ rateOf q.q7.value = Config.rate30nd then .ok (reassemble q)
    else .error .invalidValue

/-! ## The operations -/

/-- US_TO_SMPTE, R150. -/
def execUsToSmpte (us : Microseconds) (s : State) : Host.Outcome State Fault Refusal :=
  .next (s.complete (.ok (.timecode (usToSmpte us))))

/-- SMPTE_TO_US, R160. -/
def execSmpteToUs (f : MtcFullFrame) (s : State) : Host.Outcome State Fault Refusal :=
  .next (s.complete (.ok (.us (smpteToUs f))))

/-- SMPTE_TO_QF, R165. -/
def execSmpteToQf (f : MtcFullFrame) (s : State) : Host.Outcome State Fault Refusal :=
  .next (s.complete (.ok (.quarterFrames (smpteToQf f))))

/-- QF_TO_SMPTE, R170. -/
def execQfToSmpte (q : QuarterFrameArray) (s : State) : Host.Outcome State Fault Refusal :=
  .next (s.complete ((qfToSmpte q).map .timecode))

end Sys2Proof.Machine
end

