-- ==== Sys2Proof/Machine/Wire.lean ====
section
/-! DEFINITION. The wire formats as instructions (00_scope.md R1): what the block answers to a message, a header byte or a
payload it decodes, by the operation that reads it. DEDUCED, log 7. And a reserved opcode (R72). -/

namespace Sys2Proof.Machine

/-- The answer to a decoded message, as MIDI_PARSE gives it (R110). -/
def answerMessage (m : WireMessage) (s : State) : Host.Outcome State Fault Refusal :=
  .next (s.complete (.ok (.event (eventOfMessage m))))

/-- MSG_MTC_QUARTER, R111. -/
def execMsgMtcQuarter (t v : Nibble) (s : State) : Host.Outcome State Fault Refusal :=
  answerMessage (.mtcQuarter t v) s

/-- MSG_MTC_FULL, R121. -/
def execMsgMtcFull (h m sec f : Byte) (s : State) : Host.Outcome State Fault Refusal :=
  answerMessage (.mtcFull h m sec f) s

/-- MSG_MMC_STOP, R122. -/
def execMsgMmcStop (s : State) : Host.Outcome State Fault Refusal := answerMessage .mmcStop s

/-- MSG_MMC_PLAY, R123. -/
def execMsgMmcPlay (s : State) : Host.Outcome State Fault Refusal := answerMessage .mmcPlay s

/-- MSG_MMC_LOCATE, R120: the wire subframe is discarded. -/
def execMsgMmcLocate (h m sec f u : Byte) (s : State) : Host.Outcome State Fault Refusal :=
  answerMessage (.mmcLocate h m sec f u) s

/-- MSG_OTHER, R112, R113, R116, R125. -/
def execMsgOther (bytes : List Byte) (s : State) : Host.Outcome State Fault Refusal :=
  answerMessage (.other bytes) s

/-- PAYLOAD_HEADER, R89: the header byte as HDR_PARSE reads it (R102). -/
def execPayloadHeader (flags len : Nibble) (s : State) : Host.Outcome State Fault Refusal :=
  .next (s.complete ((hdrParse [byteOfNibbles flags len]).map .header))

/-- NETSYNC_PAYLOAD, R90: the payload as SLAVE_FLOW reads it (R183). -/
def execNetsyncPayload (h : PayloadHeader) (msg : List Byte) (s : State) : Host.Outcome State Fault Refusal :=
  .next (s.complete ((slaveFlow (byteOfHeader h :: msg)).map .event))

/-- RESERVED_OPCODE, R72, R204: refused, and nothing else changes. -/
def execReservedOpcode (_op : Byte) (s : State) : Host.Outcome State Fault Refusal := .next s.refuse

end Sys2Proof.Machine
end

