-- ==== Sys2Proof/Machine/Dispatch.lean ====
section
/-! DEFINITION. One arm per constructor of `Instr`, each one call of its meaning. -/

namespace Sys2Proof.Machine

def exec (i : Instr) (s : State) : Host.Outcome State Fault Refusal :=
  match i with
  | .hdrNew flags len => Sys2Proof.Machine.execHdrNew flags len s
  | .hdrSerialize h => Sys2Proof.Machine.execHdrSerialize h s
  | .hdrParse buf => Sys2Proof.Machine.execHdrParse buf s
  | .midiParse buf len => Sys2Proof.Machine.execMidiParse buf len s
  | .midiBuild e => Sys2Proof.Machine.execMidiBuild e s
  | .usToSmpte us => Sys2Proof.Machine.execUsToSmpte us s
  | .smpteToUs f => Sys2Proof.Machine.execSmpteToUs f s
  | .smpteToQf f => Sys2Proof.Machine.execSmpteToQf f s
  | .qfToSmpte q => Sys2Proof.Machine.execQfToSmpte q s
  | .masterFlow e => Sys2Proof.Machine.execMasterFlow e s
  | .slaveFlow p => Sys2Proof.Machine.execSlaveFlow p s
  | .reservedOpcode op => Sys2Proof.Machine.execReservedOpcode op s
  | .msgMtcQuarter t v => Sys2Proof.Machine.execMsgMtcQuarter t v s
  | .msgMtcFull h m sec f => Sys2Proof.Machine.execMsgMtcFull h m sec f s
  | .msgMmcStop => Sys2Proof.Machine.execMsgMmcStop s
  | .msgMmcPlay => Sys2Proof.Machine.execMsgMmcPlay s
  | .msgMmcLocate h m sec f u => Sys2Proof.Machine.execMsgMmcLocate h m sec f u s
  | .msgOther bytes => Sys2Proof.Machine.execMsgOther bytes s
  | .payloadHeader flags len => Sys2Proof.Machine.execPayloadHeader flags len s
  | .netsyncPayload h msg => Sys2Proof.Machine.execNetsyncPayload h msg s
  | .adapterMaster d cap => Sys2Proof.Machine.execAdapterMaster d cap s
  | .adapterSlave p => Sys2Proof.Machine.execAdapterSlave p s

end Sys2Proof.Machine
end

