-- ==== Sys2Proof/Machine/Step.lean ====
section
/-! DEFINITION. One step: what `nextMove` says, and where that is an encoded instruction, the decoded instruction's
meaning; an encoding the decoder rejects is answered REFUSED (R204). -/

namespace Sys2Proof.Machine

def step (s : State) : Host.Outcome State Fault Refusal :=
  match nextMove s with
  | .done s' => .next s'
  | .stop f => .fault f
  | .run w s' =>
    match decode w with
    | .ok i => exec i s'
    | .error _ => .next s'.refuse

/-- The table word as the request in flight (log 4). -/
def State.withFetchWord (s : State) (nbits w : Nat) : State := s.placeRequest (requestOfTable nbits w)

end Sys2Proof.Machine
end

