-- ==== Sys2Proof/Safety.lean ====
section
/-! DEFINITION. The terms the statements use: the state after an answer, what the block answers right after reset, which
responses are legal, the machine's invariant, and the end of a run. -/

namespace Sys2Proof.Machine

/-! ## Answers -/

/-- The whole state after the block has answered with `r` (10_state.md R32): RSP holds it, BUSY is 0, REQ is empty, and
nothing else has changed. -/
def answered (s : State) (r : Response) : State := { s with req := none, busy := false, rsp := some r }

/-- The state in which the block is performing `r`, the host having nothing further to do. -/
def performing (r : Request) : State := { State.reset with req := some r, busy := true }

/-- What the block answers to a request as the first one after reset (70_reset_and_hazards.md R230). -/
def answerAfterReset (r : Request) : Option Response :=
  match step (performing r) with
  | .next t => t.rsp
  | .fault _ => none
  | .refused _ => none

/-- The host's next action is no reset, so a busy block completes (R231, R234). -/
def noResetNext (s : State) : Prop := ∀ rest, s.host ≠ .reset :: rest

/-! ## Binary64 (R16) -/

/-- The value `sig * 2^exp`, exactly. -/
def f64Value (x : F64) : ℚ := x.sig * 2 ^ x.exp

/-- `x` is the non-negative `v` rounded to 53 significant bits, to nearest, ties to even; zero stays zero. -/
structure RoundedTo (v : ℚ) (x : F64) : Prop where
  zero : v = 0 → f64Value x = 0
  binade : v ≠ 0 → 2 ^ (x.exp + 52) ≤ v ∧ v < 2 ^ (x.exp + 53)
  nearest : v ≠ 0 → |f64Value x - v| ≤ 2 ^ x.exp / 2
  tie_even : v ≠ 0 → |f64Value x - v| = 2 ^ x.exp / 2 → x.sig % 2 = 0

/-! ## The adapter's outcomes (R196, R197) -/

/-- What MASTER_FLOW's payload `p` becomes at the master entry point; the empty REQ and RSP are log 8. -/
def masterReturns (s : State) (cap : Nat) (p : List Byte) : State :=
  if cap < p.length then { s with req := none, rsp := none, ret := some ⟨.bufferTooSmall, 0⟩ }
  else { s with req := none, rsp := none, callerBuf := p ++ s.callerBuf.drop p.length, ret := some ⟨.success, p.length⟩ }

/-- What SLAVE_FLOW's event becomes at the slave entry point; none stands for its failure. The empty REQ and RSP are log 8,
the 0 bytes returned as written log 9. -/
def slaveReturns (s : State) : Option MidiEvent → State
  | some (.mtcQuarter t v) =>
    { s with req := none, rsp := none, callerDesc := ⟨0, ⟨t, v, 0, 0, 0, 0, 0, 0⟩, 2⟩, ret := some ⟨.success, 0⟩ }
  | some (.mtcFull h m sec f) =>
    { s with req := none, rsp := none, callerDesc := ⟨1, ⟨h, m, sec, f, 0, 0, 0, 0⟩, 4⟩, ret := some ⟨.success, 0⟩ }
  | some .mmcStop =>
    { s with req := none, rsp := none, callerDesc := ⟨2, ⟨0, 0, 0, 0, 0, 0, 0, 0⟩, 0⟩, ret := some ⟨.success, 0⟩ }
  | some .mmcPlay =>
    { s with req := none, rsp := none, callerDesc := ⟨3, ⟨0, 0, 0, 0, 0, 0, 0, 0⟩, 0⟩, ret := some ⟨.success, 0⟩ }
  | some (.mmcLocate h m sec f _) =>
    { s with req := none, rsp := none, callerDesc := ⟨4, ⟨h, m, sec, f, 0, 0, 0, 0⟩, 4⟩, ret := some ⟨.success, 0⟩ }
  | some (.other _) => { s with req := none, rsp := none, ret := some ⟨.invalidEventType, 0⟩ }
  | none => { s with req := none, rsp := none, ret := some ⟨.invalidSlaveEvent, 0⟩ }

/-! ## Round trips -/

/-- R126: what comes back when a non-`Other` event is built and parsed. A field 0xF7 ends the SysEx at its first
occurrence; a quarter frame's fields keep their low nibble; a Locate's subframe becomes 0. -/
def roundTripEvent : MidiEvent → MidiEvent
  | .mtcQuarter t v => .mtcQuarter (t &&& 0x0F) (v &&& 0x0F)
  | .mtcFull h m s f =>
    if [h, m, s, f].contains 0xF7 then
      .other ([0xF0, 0x7F, 0x7F, 0x01, 0x01] ++ [h, m, s, f].take ([h, m, s, f].idxOf 0xF7) ++ [0xF7])
    else .mtcFull h m s f
  | .mmcLocate h m s f _ =>
    if [h, m, s, f].contains 0xF7 then
      .other ([0xF0, 0x7F, 0x7F, 0x06, 0x44, 0x06, 0x01] ++ [h, m, s, f].take ([h, m, s, f].idxOf 0xF7) ++ [0xF7])
    else .mmcLocate h m s f 0
  | e => e

/-- R126's conditions (a), (b) and (c). -/
def roundTrips : MidiEvent → Prop
  | .mtcQuarter t v => t.toNat ≤ 15 ∧ v.toNat ≤ 15
  | .mtcFull h m s f => 0xF7 ∉ [h, m, s, f]
  | .mmcLocate h m s f u => 0xF7 ∉ [h, m, s, f] ∧ u = 0
  | _ => True

def isOther : MidiEvent → Bool
  | .other _ => true
  | _ => false

/-! ## Legal responses and the invariant -/

/-- An event as the parser returns it: nibbles in a quarter frame (R26), no 0xF7 in a field (R114), subframe 0 (R124), and
for `Other` bytes that decode as `Other` of themselves, at least one of them (R30). -/
def legalEvent : MidiEvent → Prop
  | .mtcQuarter t v => t.toNat ≤ 15 ∧ v.toNat ≤ 15
  | .mtcFull h m s f => 0xF7 ∉ [h, m, s, f]
  | .mmcStop => True
  | .mmcPlay => True
  | .mmcLocate h m s f u => 0xF7 ∉ [h, m, s, f] ∧ u = 0
  | .other bytes => otherMessage bytes = true ∧ bytes.length ≤ Config.bufCap

/-- The eight frame types in order, values of 4 bits, and value 7 either 0x06 or 0x07 (R165). -/
def legalQuarterFrames (q : QuarterFrameArray) : Prop :=
  (quarterFrameList q).map (·.frameType) = [0, 1, 2, 3, 4, 5, 6, 7] ∧
    (∀ a ∈ quarterFrameList q, a.value.toNat ≤ 15) ∧ (q.q7.value = 0x06 ∨ q.q7.value = 0x07)

/-- A result some operation returns: byte sequences within `BUF_CAP` (R66), times within R160's largest, timecodes in
range (R28). -/
def legalResult : Result → Prop
  | .header _ => True
  | .bytes s => s.length ≤ Config.bufCap
  | .event e => legalEvent e
  | .us us => us.toNat ≤ 933563500000
  | .timecode f => InRange f
  | .quarterFrames q => legalQuarterFrames q

/-- A response of the block: the reserved kinds never occur (R203), and a requested length is within R9's bound (log 26). -/
def legalResponse : Response → Prop
  | .ok r => legalResult r
  | .err (.bufferTooSmall requested available) => 0 < available ∧ available < requested ∧ requested ≤ Config.bufCap
  | .err (.invalidMidiData _ _) => False
  | .err .incompleteFrame => False
  | .err _ => True

/-- A return of the adapter: the codes of R196 and R197, and at most R182's longest payload written. -/
def legalReturn (r : CallReturn) : Prop :=
  r.code ∈ [AdapterCode.success, .invalidSlaveEvent, .bufferTooSmall, .invalidEventType] ∧ r.written ≤ 14

/-- BUSY is 1 exactly while REQ holds a request (R32), RSP is empty meanwhile, and every response and adapter return is
legal. -/
structure Inv (s : State) : Prop where
  busy_iff : s.busy = s.req.isSome
  busy_rsp : s.busy = true → s.rsp = none
  rsp_legal : ∀ r, s.rsp = some r → legalResponse r
  taken_legal : ∀ r ∈ s.taken, legalResponse r
  ret_legal : ∀ r, s.ret = some r → legalReturn r

/-! ## Runs -/

/-- R238: the host has taken the response of its last request and BUSY = 0, seen by RSP being empty (log 25). R238 says
nothing of a run cut by reset; this counts one as ended too, when nothing is left to do. DESIGN CHOICE, log 27. -/
def runEnded (s : State) : Prop := s.host = [] ∧ s.busy = false ∧ s.rsp = none

/-- Each request issued and its response taken before the next. -/
def issueAndTake (rs : List Request) : List HostAction := rs.flatMap fun r => [.issue r, .take]

end Sys2Proof.Machine
end

