-- ==== Sys2Proof/Certificates/Slice0/Obligations.lean ====
section
/-! DEFINITION. The statements for the provers: what the numbered rules of the spec say the machine does. `answered s r`
is the whole next state, so each result statement is its instruction's completion and its frame at once. -/

open Sys2Proof Sys2Proof.Machine

/-! ## Payload header, 40_header.md -/

/-- R100. -/
def Obligations.HdrNewMasksBothFields : Prop :=
  ∀ (flags len : Byte) (s : State),
    decode (.request ⟨0x01, [.num flags.toNat, .num len.toNat]⟩) = .ok (.hdrNew flags len) ∧
    ∃ h : PayloadHeader, h.flags.toNat = flags.toNat % 16 ∧ h.len.toNat = len.toNat % 16 ∧
      exec (.hdrNew flags len) s = .next (answered s (.ok (.header h)))

/-- R101. -/
def Obligations.HdrSerializeGivesOneByte : Prop :=
  ∀ (h : PayloadHeader) (s : State),
    decode (.request ⟨0x02, [.header h.flags.toNat h.len.toNat]⟩) = .ok (.hdrSerialize h) ∧
    ∃ b : Byte, b.toNat = 16 * h.flags.toNat + h.len.toNat ∧
      exec (.hdrSerialize h) s = .next (answered s (.ok (.bytes [b])))

/-- R102: empty, and every first byte with anything after it. -/
def Obligations.HdrParseReadsFirstByteOnly : Prop :=
  (∀ buf : List Byte, buf.length ≤ Config.bufCap → decode (.request ⟨0x03, [.bytes buf]⟩) = .ok (.hdrParse buf)) ∧
  (∀ s : State, exec (.hdrParse []) s = .next (answered s (.err .insufficientHeaderData))) ∧
  ∀ (b : Byte) (rest : List Byte) (s : State),
    ∃ h : PayloadHeader, h.flags.toNat = b.toNat / 16 ∧ h.len.toNat = b.toNat % 16 ∧
      exec (.hdrParse (b :: rest)) s = .next (answered s (.ok (.header h)))

/-- Derived: both directions of R103, which the spec marks as following from R101 and R102. -/
def Obligations.HeaderSerializeParseInverse : Prop :=
  (∀ (h : PayloadHeader) (s s' : State), ∃ bytes : List Byte,
    exec (.hdrSerialize h) s = .next (answered s (.ok (.bytes bytes))) ∧
    exec (.hdrParse bytes) s' = .next (answered s' (.ok (.header h)))) ∧
  ∀ (b : Byte) (s s' : State), ∃ h : PayloadHeader,
    exec (.hdrParse [b]) s = .next (answered s (.ok (.header h))) ∧
    exec (.hdrSerialize h) s' = .next (answered s' (.ok (.bytes [b])))

/-! ## MIDI_PARSE, 41_midi_parse.md -/

/-- R127, with the errors of R110. -/
def Obligations.MidiParseLengthErrorsInOrder : Prop :=
  ∀ (buf : List Byte) (len : Nat) (s : State),
    (len = 0 ∨ buf = [] → exec (.midiParse buf len) s = .next (answered s (.err .emptyBuffer))) ∧
    (len ≠ 0 → buf ≠ [] → buf.length < len →
      exec (.midiParse buf len) s = .next (answered s (.err (.bufferTooSmall len buf.length))))

/-- Derived: R87, which the spec marks as following from R110 and R86. A length that the buffer has decodes, and no other
failure than R110's two exists. -/
def Obligations.EveryByteSequenceDecodes : Prop :=
  ∀ (buf : List Byte) (len : Nat) (s : State),
    (1 ≤ len → len ≤ buf.length → ∃ e, exec (.midiParse buf len) s = .next (answered s (.ok (.event e)))) ∧
    (¬(1 ≤ len ∧ len ≤ buf.length) → ∃ k, exec (.midiParse buf len) s = .next (answered s (.err k)) ∧
      (k = .emptyBuffer ∨ k = .bufferTooSmall len buf.length))

/-- R111: bytes after the second are not read. R112: the test is on `len`, whatever follows in `buf`. -/
def Obligations.QuarterFrameDecode : Prop :=
  (∀ (data : Byte) (rest : List Byte) (len : Nat) (s : State), 2 ≤ len → len ≤ rest.length + 2 →
    ∃ t v : Byte, t.toNat = data.toNat / 16 ∧ v.toNat = data.toNat % 16 ∧
      exec (.midiParse (0xF1 :: data :: rest) len) s = .next (answered s (.ok (.event (.mtcQuarter t v))))) ∧
  ∀ (rest : List Byte) (s : State),
    exec (.midiParse (0xF1 :: rest) 1) s = .next (answered s (.ok (.event (.other [0xF1]))))

/-- R113: the requested bytes verbatim. -/
def Obligations.NonSysexIsOtherOfRequestedBytes : Prop :=
  ∀ (b : Byte) (rest : List Byte) (len : Nat) (s : State), b ≠ 0xF0 → b ≠ 0xF1 → 1 ≤ len → len ≤ rest.length + 1 →
    exec (.midiParse (b :: rest) len) s = .next (answered s (.ok (.event (.other ((b :: rest).take len)))))

/-- R116 with the check of R115 on the slice of R114: the check passes exactly when `buf` is F0 7F 7F, bytes without F7,
F7, and anything after it. -/
def Obligations.FailedSysexCheckIsOtherOfRequestedBytes : Prop :=
  ∀ (rest : List Byte) (len : Nat) (s : State), 1 ≤ len → len ≤ rest.length + 1 →
    (¬∃ body post : List Byte, 0xF7 ∉ body ∧ rest = 0x7F :: 0x7F :: (body ++ 0xF7 :: post)) →
    exec (.midiParse (0xF0 :: rest) len) s = .next (answered s (.ok (.event (.other ((0xF0 :: rest).take len)))))

/-- R120: the wire subframe `u` and the bytes `tail` after it are ignored; the F7 may lie beyond `len`. -/
def Obligations.LocateDecode : Prop :=
  ∀ (h m sec f u : Byte) (tail post : List Byte) (len : Nat) (s : State),
    0xF7 ∉ h :: m :: sec :: f :: u :: tail → 1 ≤ len →
    len ≤ (0xF0 :: 0x7F :: 0x7F :: 0x06 :: 0x44 :: 0x06 :: 0x01 :: h :: m :: sec :: f :: u :: (tail ++ 0xF7 :: post)).length →
    exec (.midiParse
      (0xF0 :: 0x7F :: 0x7F :: 0x06 :: 0x44 :: 0x06 :: 0x01 :: h :: m :: sec :: f :: u :: (tail ++ 0xF7 :: post)) len) s =
      .next (answered s (.ok (.event (.mmcLocate h m sec f 0))))

/-- R121. -/
def Obligations.FullFrameDecode : Prop :=
  ∀ (h m sec f : Byte) (tail post : List Byte) (len : Nat) (s : State),
    0xF7 ∉ h :: m :: sec :: f :: tail → 1 ≤ len →
    len ≤ (0xF0 :: 0x7F :: 0x7F :: 0x01 :: 0x01 :: h :: m :: sec :: f :: (tail ++ 0xF7 :: post)).length →
    exec (.midiParse (0xF0 :: 0x7F :: 0x7F :: 0x01 :: 0x01 :: h :: m :: sec :: f :: (tail ++ 0xF7 :: post)) len) s =
      .next (answered s (.ok (.event (.mtcFull h m sec f))))

/-- R122 and R123. -/
def Obligations.StopAndPlayDecode : Prop :=
  ∀ (tail post : List Byte) (len : Nat) (s : State), 0xF7 ∉ tail → 1 ≤ len →
    len ≤ (0xF0 :: 0x7F :: 0x7F :: 0x06 :: 0x01 :: (tail ++ 0xF7 :: post)).length →
    exec (.midiParse (0xF0 :: 0x7F :: 0x7F :: 0x06 :: 0x01 :: (tail ++ 0xF7 :: post)) len) s =
      .next (answered s (.ok (.event .mmcStop))) ∧
    exec (.midiParse (0xF0 :: 0x7F :: 0x7F :: 0x06 :: 0x02 :: (tail ++ 0xF7 :: post)) len) s =
      .next (answered s (.ok (.event .mmcPlay)))

/-- R125: the command slice, not the requested bytes. `body` is what stands between F0 7F 7F and the first F7. -/
def Obligations.UnrecognisedSysexIsOtherOfSlice : Prop :=
  ∀ (body post : List Byte) (len : Nat) (s : State), 0xF7 ∉ body → 1 ≤ len →
    len ≤ (0xF0 :: 0x7F :: 0x7F :: (body ++ 0xF7 :: post)).length →
    ¬([0x06, 0x44, 0x06, 0x01] <+: body ∧ 9 ≤ body.length) → ¬([0x01, 0x01] <+: body ∧ 6 ≤ body.length) →
    ¬[0x06, 0x01] <+: body → ¬[0x06, 0x02] <+: body →
    exec (.midiParse (0xF0 :: 0x7F :: 0x7F :: (body ++ 0xF7 :: post)) len) s =
      .next (answered s (.ok (.event (.other (0xF0 :: 0x7F :: 0x7F :: (body ++ [0xF7]))))))

/-- R124: no Locate with a non-zero subframe is parsed, and none is built. -/
def Obligations.SubframeIsAlwaysZero : Prop :=
  (∀ (buf : List Byte) (len : Nat) (s t : State) (h m sec f u : Byte), exec (.midiParse buf len) s = .next t →
    t.rsp = some (.ok (.event (.mmcLocate h m sec f u))) → u = 0) ∧
  ∀ (s : State) (h m sec f u : Byte), ∃ bytes : List Byte, bytes[11]? = some 0 ∧
    exec (.midiBuild (.mmcLocate h m sec f u)) s = .next (answered s (.ok (.bytes bytes)))

/-- Derived: R128's last sentence, which the spec marks as following from R110 and R114: when the command slice and the
requested bytes differ. -/
def Obligations.SliceEqualsRequestedBytesExactly : Prop :=
  ∀ (buf : List Byte) (len : Nat), 1 ≤ len → len ≤ buf.length →
    (commandSlice buf len = requestedBytes buf len ↔ 0xF7 ∉ buf ∨ buf.idxOf 0xF7 = len - 1)

/-- Derived: R126, which the spec marks as following from R110 and R140 to R145: what comes back, and when it is the event
itself. -/
def Obligations.BuildThenParseRoundTrip : Prop :=
  ∀ (e : MidiEvent) (s s' : State), isOther e = false → ∃ bytes : List Byte,
    exec (.midiBuild e) s = .next (answered s (.ok (.bytes bytes))) ∧
    exec (.midiParse bytes bytes.length) s' = .next (answered s' (.ok (.event (roundTripEvent e)))) ∧
    (roundTripEvent e = e ↔ roundTrips e)

/-- Derived: R147, which the spec marks as following from R110 and R140 to R146. -/
def Obligations.ParseThenBuild : Prop :=
  ∀ (buf : List Byte) (len : Nat) (e : MidiEvent) (s : State),
    exec (.midiParse buf len) s = .next (answered s (.ok (.event e))) → ∃ bytes : List Byte,
      exec (.midiBuild e) s = .next (answered s (.ok (.bytes bytes))) ∧
      match e with
      | .mtcQuarter _ _ => bytes = buf.take 2
      | .other stored => bytes = stored
      | .mmcLocate _ _ _ _ _ =>
        bytes = commandSlice buf len ↔
          (commandSlice buf len).length = bytes.length ∧ (commandSlice buf len)[11]? = some 0
      | .mtcFull _ _ _ _ => bytes = commandSlice buf len ↔ (commandSlice buf len).length = bytes.length
      | .mmcStop => bytes = commandSlice buf len ↔ (commandSlice buf len).length = bytes.length
      | .mmcPlay => bytes = commandSlice buf len ↔ (commandSlice buf len).length = bytes.length

/-! ## MIDI_BUILD, 42_midi_build.md -/

/-- R140 to R146, the layouts of R80. -/
def Obligations.MidiBuildLayouts : Prop :=
  (∀ e : MidiEvent, e.fits = true → decode (.request ⟨0x11, [operandOfEvent e]⟩) = .ok (.midiBuild e)) ∧
  ∀ s : State,
    (∀ t v : Byte, ∃ b : Byte, b.toNat = t.toNat * 16 % 256 + v.toNat % 16 ∧
      exec (.midiBuild (.mtcQuarter t v)) s = .next (answered s (.ok (.bytes [0xF1, b])))) ∧
    (∀ h m sec f : Byte, exec (.midiBuild (.mtcFull h m sec f)) s =
      .next (answered s (.ok (.bytes [0xF0, 0x7F, 0x7F, 0x01, 0x01, h, m, sec, f, 0xF7])))) ∧
    exec (.midiBuild .mmcStop) s = .next (answered s (.ok (.bytes [0xF0, 0x7F, 0x7F, 0x06, 0x01, 0xF7]))) ∧
    exec (.midiBuild .mmcPlay) s = .next (answered s (.ok (.bytes [0xF0, 0x7F, 0x7F, 0x06, 0x02, 0xF7]))) ∧
    (∀ h m sec f u : Byte, exec (.midiBuild (.mmcLocate h m sec f u)) s =
      .next (answered s (.ok (.bytes [0xF0, 0x7F, 0x7F, 0x06, 0x44, 0x06, 0x01, h, m, sec, f, 0x00, 0xF7])))) ∧
    (∀ bytes : List Byte, exec (.midiBuild (.other bytes)) s = .next (answered s (.ok (.bytes bytes))))

/-! ## Timecode, 43_timecode.md -/

/-- Derived from R16's notation: `f64(n)`, `a *f b` and `a /f b` are the rounding of the number, of the product and of the
quotient of the operands' values to 53 significant bits, nearest, ties to even, zero included; `round_half_away` is to
the nearest natural, ties up. That the exponent has no bound, so that nothing overflows and nothing is subnormal, is the
model's, log 11, and not R16's binary64; R150 meets no value where the two differ. -/
def Obligations.Binary64RoundsToNearestEven : Prop :=
  (∀ p q : Nat, 0 < q → RoundedTo ((p : ℚ) / q) (f64OfRatio p q)) ∧
  (∀ n : Nat, RoundedTo n (f64OfNat n)) ∧
  (∀ a b : F64, RoundedTo (f64Value a * f64Value b) (f64Mul a b)) ∧
  (∀ a b : F64, f64Value b ≠ 0 → RoundedTo (f64Value a / f64Value b) (f64Div a b)) ∧
  ∀ x : F64, (roundHalfAway x : ℚ) ≤ f64Value x + 1 / 2 ∧ f64Value x + 1 / 2 < (roundHalfAway x : ℚ) + 1

/-- R150: the three binary64 operations from left to right, the rounding, the bound on the frame number, the fields. -/
def Obligations.UsToSmpteByBinary64 : Prop :=
  ∀ (us : Microseconds) (s : State),
    decode (.request ⟨0x20, [.num us.toNat]⟩) = .ok (.usToSmpte us) ∧
    ∃ (n : Nat) (f : MtcFullFrame),
      n = roundHalfAway (f64Div (f64Div (f64Mul (f64OfNat us.toNat) (f64OfNat 30)) (f64OfNat 1)) (f64OfNat 1000000)) ∧
      n < 2 ^ 49 ∧
      f.frames.toNat = n % 30 ∧ f.seconds.toNat = n / 30 % 60 ∧ f.minutes.toNat = n / 30 / 60 % 60 ∧
      f.hours.toNat = n / 30 / 3600 % 24 ∧
      exec (.usToSmpte us) s = .next (answered s (.ok (.timecode f)))

/-- Derived: R151, which the spec marks as following from R150 and R16: the integer form below the bound, and the input
above it where the two differ. -/
def Obligations.UsToSmpteIntegerForm : Prop :=
  (∀ us : Microseconds, us.toNat ≤ 300239975158033 → framenumOfUs us = (30 * us.toNat + 500000) / 1000000) ∧
  framenumOfUs 12602243923581549388 = 378067317707447 ∧ (30 * 12602243923581549388 + 500000) / 1000000 = 378067317707446

/-- Derived: R152, which the spec marks as following from R150, within R151's bound; the bound is the model's choice, and log
21 says why. -/
def Obligations.TiesRoundUpWithinBound : Prop :=
  ∀ us : Microseconds,
    ((∃ k : Nat, 2 * (30 * us.toNat) = 1000000 * (2 * k + 1)) ↔ ∃ j : Nat, us.toNat = 50000 + 100000 * j) ∧
    (us.toNat ≤ 300239975158033 → ∀ j : Nat, us.toNat = 50000 + 100000 * j → framenumOfUs us = 3 * j + 2)

/-- R160: fields weighted as written, multiplied before the truncating division. -/
def Obligations.SmpteToUsTruncates : Prop :=
  ∀ (f : MtcFullFrame) (s : State),
    decode (.request ⟨0x21, [.timecode [f.hours.toNat, f.minutes.toNat, f.seconds.toNat, f.frames.toNat]]⟩) =
      .ok (.smpteToUs f) ∧
    ∃ us : Microseconds,
      us.toNat = (f.hours.toNat * 3600 * 30 + f.minutes.toNat * 60 * 30 + f.seconds.toNat * 30 + f.frames.toNat) *
        1000000 / 30 ∧
      exec (.smpteToUs f) s = .next (answered s (.ok (.us us)))

/-- Derived: R161, which the spec marks as following from R150, R151 and R160: the error bound, and where the 24 hours
wrap. -/
def Obligations.MicrosecondRoundTripWithinOneFrame : Prop :=
  (∀ (us : Microseconds) (s s' : State), us.toNat ≤ 86399983333 → ∃ (f : MtcFullFrame) (back : Microseconds),
    exec (.usToSmpte us) s = .next (answered s (.ok (.timecode f))) ∧
    exec (.smpteToUs f) s' = .next (answered s' (.ok (.us back))) ∧
    back.toNat ≤ us.toNat + 16667 ∧ us.toNat ≤ back.toNat + 16667) ∧
  (∀ us : Microseconds, 86399983334 ≤ us.toNat → 2592000 ≤ framenumOfUs us) ∧
  ∀ s s' : State, ∃ f : MtcFullFrame,
    exec (.usToSmpte 86399983334) s = .next (answered s (.ok (.timecode f))) ∧
    exec (.smpteToUs f) s' = .next (answered s' (.ok (.us 0)))

/-- Derived: R162, which the spec marks as following from R150 and R160: the identity in range; out of range the in-range timecode of the same frame number modulo 24 hours. -/
def Obligations.TimecodeRoundTripThroughMicroseconds : Prop :=
  ∀ (f : MtcFullFrame) (s s' : State), ∃ (us : Microseconds) (g : MtcFullFrame),
    exec (.smpteToUs f) s = .next (answered s (.ok (.us us))) ∧
    exec (.usToSmpte us) s' = .next (answered s' (.ok (.timecode g))) ∧
    (InRange f → g = f) ∧ InRange g ∧
    g.hours.toNat * 3600 * 30 + g.minutes.toNat * 60 * 30 + g.seconds.toNat * 30 + g.frames.toNat =
      (f.hours.toNat * 3600 * 30 + f.minutes.toNat * 60 * 30 + f.seconds.toNat * 30 + f.frames.toNat) % 2592000

/-- R165 with the table of R166: types 0 to 7 in order, and each value. -/
def Obligations.SmpteToQfSplitsNibbles : Prop :=
  ∀ (f : MtcFullFrame) (s : State),
    decode (.request ⟨0x22, [.timecode [f.hours.toNat, f.minutes.toNat, f.seconds.toNat, f.frames.toNat]]⟩) =
      .ok (.smpteToQf f) ∧
    ∃ q : QuarterFrameArray,
      (quarterFrameList q).map (·.frameType.toNat) = [0, 1, 2, 3, 4, 5, 6, 7] ∧
      (quarterFrameList q).map (·.value.toNat) =
        [f.frames.toNat % 16, f.frames.toNat / 16, f.seconds.toNat % 16, f.seconds.toNat / 16, f.minutes.toNat % 16,
          f.minutes.toNat / 16, f.hours.toNat % 16, 6 + f.hours.toNat / 16 % 2] ∧
      exec (.smpteToQf f) s = .next (answered s (.ok (.quarterFrames q)))

/-- R170 with the check order of R211: the opcode; the pass, which the first index that fails decides, its type before its
value; after the pass the fields, their ranges and the rate bits. Bit 3 of value 7 is not examined. -/
def Obligations.QfToSmpteReassembles : Prop :=
  (∀ q : QuarterFrameArray, decode (.request ⟨0x23, [operandOfQuarterFrames q]⟩) = .ok (.qfToSmpte q)) ∧
  (∀ (q : QuarterFrameArray) (i : Nat) (a : MtcQuarterFrame) (s : State), (quarterFrameList q)[i]? = some a →
    (∀ (j : Nat) (b : MtcQuarterFrame), j < i → (quarterFrameList q)[j]? = some b →
      b.frameType.toNat = j ∧ b.value.toNat ≤ 15) →
    (a.frameType.toNat ≠ i → exec (.qfToSmpte q) s = .next (answered s (.err .invalidFrameType))) ∧
    (a.frameType.toNat = i → 15 < a.value.toNat → exec (.qfToSmpte q) s = .next (answered s (.err .invalidValue)))) ∧
  ∀ (q : QuarterFrameArray) (s : State) (frames seconds minutes hours rate : Nat),
    (∀ (i : Nat) (a : MtcQuarterFrame), (quarterFrameList q)[i]? = some a → a.frameType.toNat = i ∧ a.value.toNat ≤ 15) →
    frames = q.q0.value.toNat + 16 * q.q1.value.toNat → seconds = q.q2.value.toNat + 16 * q.q3.value.toNat →
    minutes = q.q4.value.toNat + 16 * q.q5.value.toNat → hours = q.q6.value.toNat + 16 * (q.q7.value.toNat % 2) →
    rate = q.q7.value.toNat / 2 % 4 →
    if frames ≤ 29 ∧ seconds ≤ 59 ∧ minutes ≤ 59 ∧ hours ≤ 23 ∧ rate = 3 then
      ∃ f : MtcFullFrame, f.frames.toNat = frames ∧ f.seconds.toNat = seconds ∧ f.minutes.toNat = minutes ∧
        f.hours.toNat = hours ∧ exec (.qfToSmpte q) s = .next (answered s (.ok (.timecode f)))
    else exec (.qfToSmpte q) s = .next (answered s (.err .invalidValue))

/-- Derived: R171, which the spec marks as following from R165 and R170: what reassembling a split timecode gives, in range
and out of it. -/
def Obligations.TimecodeRoundTripThroughQuarterFrames : Prop :=
  ∀ (f : MtcFullFrame) (s s' : State), ∃ q : QuarterFrameArray,
    exec (.smpteToQf f) s = .next (answered s (.ok (.quarterFrames q))) ∧
    (InRange f → exec (.qfToSmpte q) s' = .next (answered s' (.ok (.timecode f)))) ∧
    if f.frames.toNat ≤ 29 ∧ f.seconds.toNat ≤ 59 ∧ f.minutes.toNat ≤ 59 ∧ f.hours.toNat % 32 ≤ 23 then
      ∃ g : MtcFullFrame, g.frames = f.frames ∧ g.seconds = f.seconds ∧ g.minutes = f.minutes ∧
        g.hours.toNat = f.hours.toNat % 32 ∧ exec (.qfToSmpte q) s' = .next (answered s' (.ok (.timecode g)))
    else exec (.qfToSmpte q) s' = .next (answered s' (.err .invalidValue))

/-! ## Flows, 44_netsync_flow.md -/

/-- R180 with the payloads of R90. -/
def Obligations.MasterFlowPayloads : Prop :=
  (∀ e : MidiEvent, e.fits = true → decode (.request ⟨0x30, [operandOfEvent e]⟩) = .ok (.masterFlow e)) ∧
  ∀ s : State,
    (∀ bytes : List Byte, exec (.masterFlow (.other bytes)) s = .next (answered s (.err .invalidMasterEvent))) ∧
    (∀ t v : Byte, ∃ b : Byte, b.toNat = t.toNat * 16 % 256 + v.toNat % 16 ∧
      exec (.masterFlow (.mtcQuarter t v)) s = .next (answered s (.ok (.bytes [0x02, 0xF1, b])))) ∧
    (∀ h m sec f : Byte, exec (.masterFlow (.mtcFull h m sec f)) s =
      .next (answered s (.ok (.bytes [0x0A, 0xF0, 0x7F, 0x7F, 0x01, 0x01, h, m, sec, f, 0xF7])))) ∧
    exec (.masterFlow .mmcStop) s = .next (answered s (.ok (.bytes [0x06, 0xF0, 0x7F, 0x7F, 0x06, 0x01, 0xF7]))) ∧
    exec (.masterFlow .mmcPlay) s = .next (answered s (.ok (.bytes [0x06, 0xF0, 0x7F, 0x7F, 0x06, 0x02, 0xF7]))) ∧
    ∀ h m sec f u : Byte, exec (.masterFlow (.mmcLocate h m sec f u)) s =
      .next (answered s (.ok (.bytes [0x0D, 0xF0, 0x7F, 0x7F, 0x06, 0x44, 0x06, 0x01, h, m, sec, f, 0x00, 0xF7])))

/-- Derived: R181, which the spec marks as following from R180 and R139: the header's `len` is the number of MIDI bytes that
follow it. -/
def Obligations.MasterHeaderCountsTheMessage : Prop :=
  ∀ (e : MidiEvent) (s s' : State) (p : List Byte), exec (.masterFlow e) s = .next (answered s (.ok (.bytes p))) →
    ∃ (b : Byte) (msg : List Byte), p = b :: msg ∧ b.toNat % 16 = msg.length ∧ b.toNat / 16 = 0 ∧
      exec (.midiBuild e) s' = .next (answered s' (.ok (.bytes msg)))

/-- R183: the three failures, and otherwise what MIDI_PARSE of everything after the header byte gives; the header's
flags are not tested. -/
def Obligations.SlaveFlowParsesAfterTheHeader : Prop :=
  (∀ p : List Byte, p.length ≤ Config.bufCap → decode (.request ⟨0x31, [.bytes p]⟩) = .ok (.slaveFlow p)) ∧
  (∀ (p : List Byte) (s : State), p.length < 3 →
    exec (.slaveFlow p) s = .next (answered s (.err .invalidSlaveEvent))) ∧
  ∀ (b : Byte) (rest : List Byte) (s s' : State), 2 ≤ rest.length →
    if b.toNat % 16 = 0 ∨ rest.length < b.toNat % 16 then
      exec (.slaveFlow (b :: rest)) s = .next (answered s (.err .invalidSlaveEvent))
    else ∃ e : MidiEvent,
      exec (.midiParse rest (b.toNat % 16)) s' = .next (answered s' (.ok (.event e))) ∧
      exec (.slaveFlow (b :: rest)) s = .next (answered s (.ok (.event e)))

/-- Derived: R185, which the spec marks as following from R180, R181 and R183: master then slave gives what build then parse
gives. -/
def Obligations.MasterThenSlaveRoundTrip : Prop :=
  ∀ (e : MidiEvent) (s : State), isOther e = false → ∃ p bytes : List Byte,
    exec (.masterFlow e) s = .next (answered s (.ok (.bytes p))) ∧
    exec (.midiBuild e) s = .next (answered s (.ok (.bytes bytes))) ∧
    exec (.midiParse bytes bytes.length) s = .next (answered s (.ok (.event (roundTripEvent e)))) ∧
    exec (.slaveFlow p) s = .next (answered s (.ok (.event (roundTripEvent e))))

/-! ## Wire formats and reserved opcodes, 30_encoding.md -/

/-- The six message rows: the event of each (R81 to R86; the reading of the rows as instructions is log 7). -/
def Obligations.MessageRowsAnswerTheirEvent : Prop :=
  ∀ s : State,
    (∀ t v : Nibble, ∃ t' v' : Byte, t'.toNat = t.toNat ∧ v'.toNat = v.toNat ∧
      exec (.msgMtcQuarter t v) s = .next (answered s (.ok (.event (.mtcQuarter t' v'))))) ∧
    (∀ h m sec f : Byte, exec (.msgMtcFull h m sec f) s = .next (answered s (.ok (.event (.mtcFull h m sec f))))) ∧
    exec .msgMmcStop s = .next (answered s (.ok (.event .mmcStop))) ∧
    exec .msgMmcPlay s = .next (answered s (.ok (.event .mmcPlay))) ∧
    (∀ h m sec f u : Byte, exec (.msgMmcLocate h m sec f u) s =
      .next (answered s (.ok (.event (.mmcLocate h m sec f 0))))) ∧
    (∀ bytes : List Byte, exec (.msgOther bytes) s = .next (answered s (.ok (.event (.other bytes)))))

/-- The payload rows: a header byte answers its two nibbles, a payload what the slave flow reads from it (R89, R90; the
reading of the rows as instructions is log 7). -/
def Obligations.PayloadRowsAnswerHeaderAndEvent : Prop :=
  (∀ (flags len : Nibble) (s : State),
    exec (.payloadHeader flags len) s = .next (answered s (.ok (.header ⟨flags, len⟩)))) ∧
  ∀ (h : PayloadHeader) (msg : List Byte) (s s' : State),
    if msg.length < 2 ∨ h.len.toNat = 0 ∨ msg.length < h.len.toNat then
      exec (.netsyncPayload h msg) s = .next (answered s (.err .invalidSlaveEvent))
    else ∃ e : MidiEvent,
      exec (.midiParse msg h.len.toNat) s' = .next (answered s' (.ok (.event e))) ∧
      exec (.netsyncPayload h msg) s = .next (answered s (.ok (.event e)))

/-- R72: whatever the operands, and nothing but RSP and the handshake changes. -/
def Obligations.ReservedOpcodeIsRefused : Prop :=
  ∀ (op : Byte) (args : List Operand) (s : State),
    op ∉ ([0x01, 0x02, 0x03, 0x10, 0x11, 0x20, 0x21, 0x22, 0x23, 0x30, 0x31] : List Byte) →
    decode (.request ⟨op, args⟩) = .ok (.reservedOpcode op) ∧
    exec (.reservedOpcode op) s = .next (answered s (.err .refused)) ∧ statusOf (.err .refused) = 0xFF

/-! ## Host adapter, 45_host_adapter.md -/

/-- Derived from R196 with the descriptors of R192: five accepted kinds with their exact lengths, every other descriptor
code 5. That the call is one step which leaves REQ and RSP empty is the model's choice, log 8, and so is the caller's
buffer as a list, log 9. -/
def Obligations.AdapterMasterByDescriptor : Prop :=
  ∀ (d : Descriptor) (cap : Nat) (s : State), s.busy = false →
    (d.kind = 0 → d.length = 2 → ∃ b : Byte, b.toNat = d.data.d0.toNat * 16 % 256 + d.data.d1.toNat % 16 ∧
      exec (.adapterMaster d cap) s = .next (masterReturns s cap [0x02, 0xF1, b])) ∧
    (d.kind = 1 → d.length = 4 → exec (.adapterMaster d cap) s = .next (masterReturns s cap
      [0x0A, 0xF0, 0x7F, 0x7F, 0x01, 0x01, d.data.d0, d.data.d1, d.data.d2, d.data.d3, 0xF7])) ∧
    (d.kind = 2 → d.length = 0 → exec (.adapterMaster d cap) s = .next (masterReturns s cap
      [0x06, 0xF0, 0x7F, 0x7F, 0x06, 0x01, 0xF7])) ∧
    (d.kind = 3 → d.length = 0 → exec (.adapterMaster d cap) s = .next (masterReturns s cap
      [0x06, 0xF0, 0x7F, 0x7F, 0x06, 0x02, 0xF7])) ∧
    (d.kind = 4 → d.length = 4 → exec (.adapterMaster d cap) s = .next (masterReturns s cap
      [0x0D, 0xF0, 0x7F, 0x7F, 0x06, 0x44, 0x06, 0x01, d.data.d0, d.data.d1, d.data.d2, d.data.d3, 0x00, 0xF7])) ∧
    ((d.kind, d.length) ∉ ([(0, 2), (1, 4), (2, 0), (3, 0), (4, 4)] : List (Byte × Byte)) →
      exec (.adapterMaster d cap) s = .next { s with ret := some ⟨.invalidEventType, 0⟩ })

/-- Derived from R197 with the descriptors of R193, for a payload the block accepts: by what SLAVE_FLOW answers to it, and
written out for a quarter-frame payload, which completes with code 0. That the call is one step which leaves REQ and RSP
empty is the model's choice, log 8, and so is the 0 returned as bytes written, log 9. -/
def Obligations.AdapterSlaveBySlaveFlow : Prop :=
  (∀ (p : List Byte) (s : State), s.busy = false → p.length ≤ Config.bufCap →
    (∃ e, exec (.slaveFlow p) s = .next (answered s (.ok (.event e))) ∧
      exec (.adapterSlave p) s = .next (slaveReturns s (some e))) ∨
    (∃ k, exec (.slaveFlow p) s = .next (answered s (.err k)) ∧
      exec (.adapterSlave p) s = .next (slaveReturns s none))) ∧
  ∀ (b data : Byte) (rest : List Byte) (s : State), s.busy = false → rest.length + 3 ≤ Config.bufCap →
    2 ≤ b.toNat % 16 → b.toNat % 16 ≤ rest.length + 2 →
    ∃ t v : Byte, t.toNat = data.toNat / 16 ∧ v.toNat = data.toNat % 16 ∧
      exec (.adapterSlave (b :: 0xF1 :: data :: rest)) s = .next (slaveReturns s (some (.mtcQuarter t v)))

/-- A payload longer than `BUF_CAP` is refused by the interface, which the adapter reports as code 2: the model's reading,
log 10. And a call made while BUSY = 1 is held, log 8. -/
def Obligations.AdapterAtTheInterface : Prop :=
  (∀ (p : List Byte) (s : State), s.busy = false → Config.bufCap < p.length →
    exec (.adapterSlave p) s = .next (slaveReturns s none)) ∧
  ∀ (d : Descriptor) (cap : Nat) (p : List Byte) (s : State), s.busy = true →
    exec (.adapterMaster d cap) s = .next s ∧ exec (.adapterSlave p) s = .next s

/-- Derived from R195 to R198. R198: code 4 stays reserved and is never produced, nor is code 1; R196 and R197 list the codes
of each entry point. R195: the reported maximum of 16 bytes suffices for every payload, of which none is longer than 14.
That the slave returns 0 as bytes written is the model's choice, log 9. -/
def Obligations.AdapterCodesAndMaximum : Prop :=
  adapterMaxBufferSize = 16 ∧ adapterCodeNumber .nullPointer = 4 ∧
  (∀ (d : Descriptor) (cap : Nat) (s t : State), s.busy = false → exec (.adapterMaster d cap) s = .next t →
    ∃ r, t.ret = some r ∧ r.code ∈ [AdapterCode.success, .bufferTooSmall, .invalidEventType] ∧
      r.written ≤ 14 ∧ (adapterMaxBufferSize ≤ cap → r.code ≠ .bufferTooSmall)) ∧
  ∀ (p : List Byte) (s t : State), s.busy = false → exec (.adapterSlave p) s = .next t →
    ∃ r, t.ret = some r ∧ r.code ∈ [AdapterCode.success, .invalidSlaveEvent, .invalidEventType] ∧ r.written = 0

/-- The frame of both entry points: the host's list, the taken responses and BUSY are unchanged; the master writes only
the first `written` bytes of the caller's buffer and never the descriptor, the slave only the descriptor, and neither
writes caller output on a code other than 0 (R199). -/
def Obligations.AdapterFrame : Prop :=
  (∀ (d : Descriptor) (cap : Nat) (s t : State), s.busy = false → exec (.adapterMaster d cap) s = .next t →
    t.host = s.host ∧ t.taken = s.taken ∧ t.busy = s.busy ∧ t.callerDesc = s.callerDesc ∧
    ∃ r, t.ret = some r ∧ (r.code ≠ .success → r.written = 0) ∧
      ∀ a, r.written ≤ a → t.callerBuf[a]? = s.callerBuf[a]?) ∧
  ∀ (p : List Byte) (s t : State), s.busy = false → exec (.adapterSlave p) s = .next t →
    t.host = s.host ∧ t.taken = s.taken ∧ t.busy = s.busy ∧ t.callerBuf = s.callerBuf ∧
    ∃ r, t.ret = some r ∧ (r.code ≠ .success → t.callerDesc = s.callerDesc)

/-! ## Outcomes and their numbers -/

/-- R203: whatever an instruction answers, from a state without a response, is neither reserved kind. -/
def Obligations.ReservedErrorsAreNeverProduced : Prop :=
  ∀ (i : Instr) (s t : State), exec i { s with rsp := none } = .next t →
    t.rsp ≠ some (.err .incompleteFrame) ∧ ∀ (position : Nat) (byte : Byte), t.rsp ≠ some (.err (.invalidMidiData position byte))

/-- Derived: the status column of R201. -/
def Obligations.StatusNumbers : Prop :=
  (∀ r, statusOf (.ok r) = 0x00) ∧ statusOf (.err .emptyBuffer) = 0x01 ∧
  (∀ r a, statusOf (.err (.bufferTooSmall r a)) = 0x02) ∧ statusOf (.err .insufficientHeaderData) = 0x03 ∧
  (∀ p b, statusOf (.err (.invalidMidiData p b)) = 0x04) ∧ statusOf (.err .incompleteFrame) = 0x10 ∧
  statusOf (.err .invalidFrameType) = 0x11 ∧ statusOf (.err .invalidValue) = 0x12 ∧
  statusOf (.err .invalidMasterEvent) = 0x20 ∧ statusOf (.err .invalidSlaveEvent) = 0x21 ∧
  statusOf (.err .refused) = 0xFF

/-! ## Encoding -/

/-- Derived from 30_encoding.md: every well-formed instruction is read back from its encoding. What is well formed rests on
the reading of `BUF_CAP` for an `Other` event, log 6, and of the wire rows, log 7. -/
def Obligations.DecodeOfEncode : Prop := ∀ i : Instr, i.wellFormed = true → decode (encode i) = .ok i

/-- Derived: whatever is decoded is well formed. A byte sequence is within `BUF_CAP` (R66, R73), a reserved opcode is none of
R70's (R72), and a message row is the one R86 selects. MIDI_PARSE's `len` is within `BUF_CAP` by R9, log 26. That the bytes of an `Other` event count is log 6, and that an
over-long message or payload is no row is log 7. -/
def Obligations.DecodedIsWellFormed : Prop := ∀ (w : Encoded) (i : Instr), decode w = .ok i → i.wellFormed = true

/-- Derived from R70 and R73, over the model's operand values (log 1): a request of a listed opcode that is accepted is the
one encoding of its instruction, so no operand of another shape is. -/
def Obligations.AcceptedRequestIsItsEncoding : Prop :=
  ∀ (r : Request) (i : Instr), r.op ∈ listedOpcodes → decode (.request r) = .ok i → encode i = .request r

/-- Words written out from R81 to R89 and R70. -/
def Obligations.SpecWordsDecode : Prop :=
  decode (.wire [0xF1, 0x23]) = .ok (.msgMtcQuarter 2 3) ∧
  decode (.wire [0xF0, 0x7F, 0x7F, 0x01, 0x01, 0x01, 0x23, 0x45, 0x67, 0xF7]) = .ok (.msgMtcFull 0x01 0x23 0x45 0x67) ∧
  decode (.wire [0xF0, 0x7F, 0x7F, 0x06, 0x01, 0xF7]) = .ok .msgMmcStop ∧
  decode (.wire [0xF0, 0x7F, 0x7F, 0x06, 0x02, 0xF7]) = .ok .msgMmcPlay ∧
  decode (.header 0xA5) = .ok (.payloadHeader 10 5) ∧
  decode (.payload [0x0D, 0xF0]) = .ok (.netsyncPayload ⟨0, 13⟩ [0xF0]) ∧
  decode (.request ⟨0x01, [.num 0, .num 13]⟩) = .ok (.hdrNew 0 13) ∧
  decode (.request ⟨0x04, []⟩) = .ok (.reservedOpcode 0x04)

/-! ## The interface -/

/-- A step runs the decoded instruction: of the request in flight, in the state as it stands; of an adapter call, in the
state without the host's action. Derived: the second clause is the model's choice, a call as an action of the host's list
(log 2) that is done in one step (log 8). -/
def Obligations.StepRunsTheDecodedInstruction : Prop :=
  (∀ (s : State) (r : Request) (i : Instr), s.busy = true → s.req = some r → noResetNext s →
    decode (.request r) = .ok i → step s = exec i s) ∧
  ∀ (s : State) (c : Call) (rest : List HostAction) (i : Instr), s.busy = false → s.host = .call c :: rest →
    decode (.call c) = .ok i → step s = exec i { s with host := rest }

/-- A message, a header byte or a payload within `BUF_CAP`, given to the operation that reads it, runs as its own row. An
over-long message or payload is no row, and the operation's request is answered REFUSED (R66, R204). Derived: the reading
of the rows as instructions is log 7. -/
def Obligations.StepRunsTheWireInstruction : Prop :=
  ∀ s : State, s.busy = true → noResetNext s →
    (∀ bytes : List Byte, s.req = some ⟨0x10, [.bytes bytes, .num bytes.length]⟩ →
      (∀ i : Instr, bytes.length ≤ Config.bufCap → decode (.wire bytes) = .ok i → step s = exec i s) ∧
      (Config.bufCap < bytes.length → decode (.wire bytes) = .error .operandTooLong ∧
        step s = .next (answered s (.err .refused)))) ∧
    (∀ (b : Byte) (i : Instr), s.req = some ⟨0x03, [.bytes [b]]⟩ → decode (.header b) = .ok i → step s = exec i s) ∧
    ∀ p : List Byte, s.req = some ⟨0x31, [.bytes p]⟩ →
      (∀ i : Instr, p.length ≤ Config.bufCap → decode (.payload p) = .ok i → step s = exec i s) ∧
      (Config.bufCap < p.length → decode (.payload p) = .error .operandTooLong ∧
        step s = .next (answered s (.err .refused)))

/-- Derived from R204: REFUSED exactly when the opcode is reserved or the request is no well-formed instruction's encoding.
That this takes in an `Other` event with more than `BUF_CAP` bytes is log 6, that it takes in every other count or order
of operands is the model's choice, log 1, and that it takes in a `len` above `BUF_CAP` is read from R9, log 26. -/
def Obligations.RefusedExactlyAtTheInterface : Prop :=
  ∀ (s : State) (r : Request), s.busy = true → s.req = some r → noResetNext s → ∃ resp : Response,
    step s = .next (answered s resp) ∧
    (resp = .err .refused ↔ r.op ∉ listedOpcodes ∨ ∀ i : Instr, i.wellFormed = true → encode i ≠ .request r)

/-- Derived: R66, which the spec marks as following from R10, R146 and R182; that the bytes of an `Other` event count is log
6. An over-long operand is refused whatever else holds of the request, a `len` of MIDI_PARSE above `BUF_CAP` as well (R9,
log 26), and no byte result is longer. -/
def Obligations.ByteSequencesStayWithinBufCap : Prop :=
  (∀ (s : State) (r : Request) (bytes : List Byte), s.busy = true → s.req = some r → noResetNext s →
    Config.bufCap < bytes.length →
    (r = ⟨0x03, [.bytes bytes]⟩ ∨ (∃ n, r = ⟨0x10, [.bytes bytes, .num n]⟩) ∨ r = ⟨0x31, [.bytes bytes]⟩ ∨
      r = ⟨0x11, [operandOfEvent (.other bytes)]⟩ ∨ r = ⟨0x30, [operandOfEvent (.other bytes)]⟩) →
    step s = .next (answered s (.err .refused))) ∧
  (∀ (s : State) (buf : List Byte) (len : Nat), s.busy = true → s.req = some ⟨0x10, [.bytes buf, .num len]⟩ →
    noResetNext s → Config.bufCap < len → step s = .next (answered s (.err .refused))) ∧
  ∀ (s t : State) (bytes : List Byte), s.busy = true → noResetNext s → step s = .next t →
    t.rsp = some (.ok (.bytes bytes)) → bytes.length ≤ Config.bufCap

/-- Derived: R32's acceptance while BUSY = 0, and the model's own taking and idling (log 2, 3, 18, 25). -/
def Obligations.HostActionsWhileIdle : Prop :=
  ∀ (s : State) (rest : List HostAction), s.busy = false →
    (∀ r, s.host = .issue r :: rest → step s = .next { s with req := some r, busy := true, rsp := none, host := rest }) ∧
    (∀ r, s.host = .take :: rest → s.rsp = some r →
      step s = .next { s with rsp := none, taken := s.taken ++ [r], host := rest }) ∧
    (s.host = .take :: rest → s.rsp = none → step s = .next { s with host := rest }) ∧
    (s.host = [] → step s = .next s)

/-- Derived from R234: the request is held, the busy block answers, and the held request is accepted next. That RSP is empty
after the acceptance is the model's reading, log 18, and the host's list is log 2. -/
def Obligations.RequestWhileBusyIsHeld : Prop :=
  ∀ (s : State) (r r' : Request) (rest : List HostAction), s.busy = true → s.req = some r →
    s.host = .issue r' :: rest → ∃ resp : Response,
      step s = .next (answered s resp) ∧
      step (answered s resp) = .next { s with req := some r', busy := true, rsp := none, host := rest }

/-- Derived from R231: a reset abandons the request in flight, without a response, and the same request issued again is
answered. The host's list is log 2, that the reset lands before the completion log 12, and that it leaves the host's
list, the taken responses and the caller's output as they were is the model's choice, log 24. -/
def Obligations.ResetAbandonsTheRequest : Prop :=
  ∀ (s : State) (r : Request) (rest : List HostAction), s.busy = true → s.req = some r → noResetNext { s with host := rest } →
    s.host = .reset :: .issue r :: rest →
    step s = .next { s with req := none, busy := false, rsp := none, host := .issue r :: rest } ∧
    step { s with req := none, busy := false, rsp := none, host := .issue r :: rest } =
      .next { s with req := some r, busy := true, rsp := none, host := rest } ∧
    ∃ resp : Response, answerAfterReset r = some resp ∧
      step { s with req := some r, busy := true, rsp := none, host := rest } =
        .next { s with req := none, busy := false, rsp := some resp, host := rest }

/-- Derived: R33, which the spec marks as following from R20 and R37: equal requests get equal responses whatever came
before, namely the response right after reset. -/
def Obligations.EqualRequestsGetEqualResponses : Prop :=
  ∀ (s : State) (r : Request), s.busy = true → s.req = some r → noResetNext s →
    ∃ resp : Response, answerAfterReset r = some resp ∧ step s = .next (answered s resp)

/-- Derived from R32, R59 and R234 over the model's list of host actions (log 2): responses come back complete and in issue
order. The empty RSP after each taking is log 25. -/
def Obligations.ResponsesComeBackInIssueOrder : Prop :=
  ∀ (rs : List Request) (s : State) (rest : List HostAction), s.busy = false → s.host = issueAndTake rs ++ rest →
    ∃ t : State, Sys2Proof.core.run (3 * rs.length) s = .next t ∧ t.host = rest ∧ t.busy = false ∧
      t.taken.map some = s.taken.map some ++ rs.map answerAfterReset ∧ (rs ≠ [] → t.rsp = none)

/-- The frame of the twenty rows that are no adapter call: only REQ, BUSY and RSP change. -/
def Obligations.OperationFrame : Prop :=
  ∀ (i : Instr) (s t : State), (∀ d cap, i ≠ .adapterMaster d cap) → (∀ p, i ≠ .adapterSlave p) →
    exec i s = .next t →
    t.host = s.host ∧ t.taken = s.taken ∧ t.callerBuf = s.callerBuf ∧ t.callerDesc = s.callerDesc ∧ t.ret = s.ret ∧
    t.req = none ∧ t.busy = false ∧ t.rsp.isSome = true

/-- R34: the values at reset, and no response to a read before the first one. R230 and R231: the same values after a reset
the host asserts, and a request is accepted at once. -/
def Obligations.ResetState : Prop :=
  State.reset.busy = false ∧ State.reset.req = none ∧ State.reset.rsp = none ∧
  step { State.reset with host := [.take] } = .next State.reset ∧
  (∀ r : Request, step { State.reset with host := [.issue r] } = .next { State.reset with req := some r, busy := true }) ∧
  ∀ (s t : State) (rest : List HostAction), s.host = .reset :: rest → step s = .next t →
    t.busy = false ∧ t.req = none ∧ t.rsp = none

/-! ## Invariant -/

/-- Derived: every step keeps the invariant, from every state that has it. BUSY and REQ agree by R32; that RSP is empty while
BUSY = 1 is the model's reading, log 18. The bounds of the responses follow from R9 (log 26), R66 (log 6 for an `Other`
event), R160, R165 and R203, those of the adapter's returns from R182, R196 and R197. The taken responses are log 2, the
remembered return log 9. -/
def Obligations.StepKeepsInv : Prop := ∀ s t : State, Inv s → step s = .next t → Inv t

/-- Derived from R230: reset has the invariant. The empty list of taken responses is the model's choice, log 2, and the absent
adapter return log 9. -/
def Obligations.ResetHasInv : Prop := Inv State.reset

/-- Derived: no state with the invariant stops. The block has no fault state (R238) and refuses nothing as not modelled; the
model's one fault is log 13, and that an idle step answers is log 3. -/
def Obligations.EveryStepAnswers : Prop := ∀ s : State, Inv s → ∃ t : State, step s = .next t
end

