-- ==== Sys2Proof/Laws/Codec.lean ====
section
/-! SUPPORT. What the decoder's pieces do, once each: nibbles, operand shapes, the search for 0xF7 and the command
slice. -/

namespace Sys2Proof

/-! ## Nibbles -/

@[simp] theorem highNibble_toNat (b : Byte) : (highNibble b).toNat = b.toNat / 16 := by
  simp [highNibble, BitVec.extractLsb'_toNat, Nat.shiftRight_eq_div_pow]
  omega

@[simp] theorem lowNibble_toNat (b : Byte) : (lowNibble b).toNat = b.toNat % 16 := by
  simp [lowNibble, BitVec.extractLsb'_toNat]

@[simp] theorem byteOfNibbles_toNat (h l : Nibble) : (byteOfNibbles h l).toNat = 16 * h.toNat + l.toNat := by
  have := l.isLt
  rw [byteOfNibbles, BitVec.toNat_append, ← Nat.shiftLeft_add_eq_or_of_lt (by simpa using this)]
  simp [Nat.shiftLeft_eq]
  omega

@[simp] theorem highNibble_byteOfNibbles (h l : Nibble) : highNibble (byteOfNibbles h l) = h := by
  apply BitVec.eq_of_toNat_eq
  have := l.isLt
  simp
  omega

@[simp] theorem lowNibble_byteOfNibbles (h l : Nibble) : lowNibble (byteOfNibbles h l) = l := by
  apply BitVec.eq_of_toNat_eq
  have := l.isLt
  simp
  omega

@[simp] theorem byteOfNibbles_of_nibbles (b : Byte) : byteOfNibbles (highNibble b) (lowNibble b) = b := by
  apply BitVec.eq_of_toNat_eq
  simp
  omega

@[simp] theorem headerOfByte_byteOfHeader (h : PayloadHeader) : headerOfByte (byteOfHeader h) = h := by
  simp [headerOfByte, byteOfHeader]

@[simp] theorem byteOfHeader_headerOfByte (b : Byte) : byteOfHeader (headerOfByte b) = b := by
  simp [headerOfByte, byteOfHeader]

/-! ## Operand shapes -/

@[simp] theorem fieldOf?_toNat {w : Nat} (v : BitVec w) : fieldOf? w v.toNat = some v := by
  simp [fieldOf?, v.isLt]

@[simp] theorem bytesOf?_map_toNat (s : List Byte) : bytesOf? (s.map BitVec.toNat) = some s := by
  induction s with
  | nil => rfl
  | cons b s ih => simp [bytesOf?, ih]

@[simp] theorem eventOf?_other (s : List Byte) : eventOf? 5 (s.map BitVec.toNat) = some (.other s) := by
  rw [eventOf?, bytesOf?_map_toNat]
  rfl

@[simp] theorem headerOf?_toNat (h : PayloadHeader) : headerOf? h.flags.toNat h.len.toNat = some h := by
  simp [headerOf?]

theorem fieldOf?_eq_some {w n : Nat} {v : BitVec w} (h : fieldOf? w n = some v) : n = v.toNat := by
  unfold fieldOf? at h
  split at h
  · rename_i lt
    cases h
    simp [Nat.mod_eq_of_lt lt]
  · cases h

theorem bytesOf?_eq_some {ns : List Nat} {s : List Byte} (h : bytesOf? ns = some s) : ns = s.map BitVec.toNat := by
  induction ns generalizing s with
  | nil => cases h; rfl
  | cons n ns ih =>
    simp only [bytesOf?, Option.bind_eq_some_iff, Option.map_eq_some_iff] at h
    obtain ⟨b, hb, s', hs, rfl⟩ := h
    rw [fieldOf?_eq_some hb, ih hs, List.map_cons]

@[simp] theorem quarterFramesOf?_map_toNat (qs : List MtcQuarterFrame) :
    quarterFramesOf? (qs.map fun a => (a.frameType.toNat, a.value.toNat)) = some qs := by
  induction qs with
  | nil => rfl
  | cons q qs ih => simp [quarterFramesOf?, quarterFrameOf?, ih]

/-! ## The bound of R66 -/

/-- R10: `BUF_CAP` admits every message and payload the block builds. -/
theorem fitsBufCap_of_length_le {s : List Byte} (h : s.length ≤ 16) : fitsBufCap s = true :=
  decide_eq_true (by unfold Config.bufCap; omega)

/-- All that `decode` accepts. -/
theorem decode_eq_ok_iff {w : Encoded} {i : Instr} :
    decode w = .ok i ↔ readEncoded w = .ok i ∧ w.fits = true ∧ i.fits = true := by
  unfold decode
  cases readEncoded w with
  | error e => simp
  | ok j =>
    simp only [Except.ok.injEq]
    split <;> rename_i b
    · rw [Bool.and_eq_true] at b
      exact ⟨fun h => Except.ok.inj h ▸ ⟨rfl, b⟩, fun h => congrArg _ h.1⟩
    · refine ⟨fun h => (by cases h), ?_⟩
      rintro ⟨rfl, f⟩
      exact absurd (Bool.and_eq_true _ _ ▸ f) b

/-- The request that builds an `Other` event, within the bound. -/
theorem decode_buildOther {bytes : List Byte} (h : bytes.length ≤ Config.bufCap) :
    decode (.request ⟨0x11, [operandOfEvent (.other bytes)]⟩) = .ok (.midiBuild (.other bytes)) := by
  rw [decode_eq_ok_iff]
  refine ⟨?_, rfl, decide_eq_true h⟩
  have shape : operandsOf? 0x11 [operandOfEvent (.other bytes)] = some (.midiBuild (.other bytes)) :=
    congrArg (Option.map Instr.midiBuild) (eventOf?_other bytes)
  exact congrArg (fun o : Option Instr => match o with | some i => Except.ok i | none => .error Reject.operandShape) shape

/-- R9, R66: the two bounds of a MIDI_PARSE request, and nothing else, decide whether it is accepted. -/
theorem decode_midiParse (buf : List Byte) (len : Nat) :
    decode (.request ⟨0x10, [.bytes buf, .num len]⟩) =
      if buf.length ≤ Config.bufCap ∧ len ≤ Config.bufCap then .ok (.midiParse buf len) else .error .operandTooLong := by
  by_cases b : buf.length ≤ Config.bufCap <;> by_cases l : len ≤ Config.bufCap <;>
    simp [decode, readEncoded, listedOpcodes, operandsOf?, Encoded.fits, Instr.fits, fitsBufCap, b, l]

/-- An over-long wire message is no row, however short the row its first bytes would make. -/
theorem decode_wire_too_long {bytes : List Byte} (h : Config.bufCap < bytes.length) :
    decode (.wire bytes) = .error .operandTooLong := by
  have one : 1 ≤ bytes.length := by omega
  simp [decode, readEncoded, one, Encoded.fits, fitsBufCap, Nat.not_le.mpr h]

/-! ## The search for a byte, and the command slice -/

theorem indexOf_eq_none_iff {v : Byte} {s : List Byte} : indexOf v s = none ↔ v ∉ s := by
  induction s with
  | nil => simp [indexOf]
  | cons b s ih =>
    by_cases e : b = v
    · simp [indexOf, e]
    · simp [indexOf, e, ih, Ne.symm e]

/-- The index found splits the sequence: no such byte before it, the byte at it. -/
theorem indexOf_eq_some {v : Byte} {s : List Byte} {e : Nat} (h : indexOf v s = some e) :
    ∃ pre post, s = pre ++ v :: post ∧ v ∉ pre ∧ pre.length = e := by
  induction s generalizing e with
  | nil => cases h
  | cons b s ih =>
    by_cases eq : b = v
    · simp only [indexOf, eq, if_true, Option.some.injEq] at h
      exact ⟨[], s, by simp [eq], by simp, by simpa using h⟩
    · simp only [indexOf, if_neg eq, Option.map_eq_some_iff] at h
      obtain ⟨e', he, rfl⟩ := h
      obtain ⟨pre, post, rfl, hn, rfl⟩ := ih he
      exact ⟨b :: pre, post, rfl, by simp [hn, Ne.symm eq], rfl⟩

@[simp] theorem indexOf_append_cons {v : Byte} {pre : List Byte} (post : List Byte) (h : v ∉ pre) :
    indexOf v (pre ++ v :: post) = some pre.length := by
  induction pre with
  | nil => simp [indexOf]
  | cons b pre ih =>
    simp only [List.mem_cons, not_or] at h
    simp [indexOf, Ne.symm h.1, ih h.2]

/-- R114 where 0xF7 stands somewhere: up to and with the first one. -/
theorem commandSlice_terminated {pre : List Byte} (post : List Byte) (len : Nat) (h : Config.sysexEnd ∉ pre) :
    commandSlice (pre ++ Config.sysexEnd :: post) len = pre ++ [Config.sysexEnd] := by
  simp [commandSlice, h, List.take_append]

/-- R114 where it does not. -/
theorem commandSlice_unterminated {buf : List Byte} (len : Nat) (h : Config.sysexEnd ∉ buf) :
    commandSlice buf len = requestedBytes buf len := by
  simp [commandSlice, indexOf_eq_none_iff.mpr h]

/-- R114 in one: what the command slice can be. -/
theorem commandSlice_cases (buf : List Byte) (len : Nat) :
    (∃ pre post, buf = pre ++ Config.sysexEnd :: post ∧ Config.sysexEnd ∉ pre ∧
      commandSlice buf len = pre ++ [Config.sysexEnd]) ∨
    (Config.sysexEnd ∉ buf ∧ commandSlice buf len = buf.take len) := by
  cases h : indexOf Config.sysexEnd buf with
  | none => exact .inr ⟨indexOf_eq_none_iff.mp h, commandSlice_unterminated len (indexOf_eq_none_iff.mp h)⟩
  | some e =>
    obtain ⟨pre, post, rfl, hn, -⟩ := indexOf_eq_some h
    exact .inl ⟨pre, post, rfl, hn, commandSlice_terminated post len hn⟩

end Sys2Proof
end

