-- ==== Sys2Proof/Laws/PerInstr.lean ====
section
/-! SUPPORT. One lemma per constructor: the encoding of every instruction has the form its row of opcode_table.json
gives it, the opcode byte of a request row and the length in bytes of a fixed-length message row. -/

namespace Sys2Proof.Laws.EncodedForm

/-- The form of an encoding: a request by its opcode, a message by its length, and the other formats. -/
inductive Form where
  | request (op : Byte)
  | wire (length : Nat)
  | header
  | payload (length : Nat)
  | call
deriving DecidableEq, Repr

def formOf : Encoded → Form
  | .request r => .request r.op
  | .wire bytes => .wire bytes.length
  | .header _ => .header
  | .payload bytes => .payload bytes.length
  | .call _ => .call

/-- The row's own form. -/
def tableForm : Instr → Form
  | .hdrNew .. => .request 0x01
  | .hdrSerialize _ => .request 0x02
  | .hdrParse _ => .request 0x03
  | .midiParse .. => .request 0x10
  | .midiBuild _ => .request 0x11
  | .usToSmpte _ => .request 0x20
  | .smpteToUs _ => .request 0x21
  | .smpteToQf _ => .request 0x22
  | .qfToSmpte _ => .request 0x23
  | .masterFlow _ => .request 0x30
  | .slaveFlow _ => .request 0x31
  | .reservedOpcode op => .request op
  | .msgMtcQuarter .. => .wire 2
  | .msgMtcFull .. => .wire 10
  | .msgMmcStop => .wire 6
  | .msgMmcPlay => .wire 6
  | .msgMmcLocate .. => .wire 13
  | .msgOther bytes => .wire bytes.length
  | .payloadHeader .. => .header
  | .netsyncPayload _ msg => .payload (msg.length + 1)
  | .adapterMaster .. => .call
  | .adapterSlave _ => .call

def Statement (i : Instr) : Prop := formOf (encode i) = tableForm i

theorem hdrNew (flags len : Byte) : Statement (.hdrNew flags len) := rfl
theorem hdrSerialize (h : PayloadHeader) : Statement (.hdrSerialize h) := rfl
theorem hdrParse (buf : List Byte) : Statement (.hdrParse buf) := rfl
theorem midiParse (buf : List Byte) (len : Nat) : Statement (.midiParse buf len) := rfl
theorem midiBuild (e : MidiEvent) : Statement (.midiBuild e) := rfl
theorem usToSmpte (us : Microseconds) : Statement (.usToSmpte us) := rfl
theorem smpteToUs (f : MtcFullFrame) : Statement (.smpteToUs f) := rfl
theorem smpteToQf (f : MtcFullFrame) : Statement (.smpteToQf f) := rfl
theorem qfToSmpte (q : QuarterFrameArray) : Statement (.qfToSmpte q) := rfl
theorem masterFlow (e : MidiEvent) : Statement (.masterFlow e) := rfl
theorem slaveFlow (p : List Byte) : Statement (.slaveFlow p) := rfl
theorem reservedOpcode (op : Byte) : Statement (.reservedOpcode op) := rfl
theorem msgMtcQuarter (t v : Nibble) : Statement (.msgMtcQuarter t v) := rfl
theorem msgMtcFull (hour minute second frame : Byte) : Statement (.msgMtcFull hour minute second frame) := rfl
theorem msgMmcStop : Statement .msgMmcStop := rfl
theorem msgMmcPlay : Statement .msgMmcPlay := rfl
theorem msgMmcLocate (hour minute second frame subframe : Byte) :
    Statement (.msgMmcLocate hour minute second frame subframe) := rfl
theorem msgOther (bytes : List Byte) : Statement (.msgOther bytes) := rfl
theorem payloadHeader (flags len : Nibble) : Statement (.payloadHeader flags len) := rfl
theorem netsyncPayload (h : PayloadHeader) (msg : List Byte) : Statement (.netsyncPayload h msg) := rfl
theorem adapterMaster (d : Descriptor) (cap : Nat) : Statement (.adapterMaster d cap) := rfl
theorem adapterSlave (p : List Byte) : Statement (.adapterSlave p) := rfl

end Sys2Proof.Laws.EncodedForm
end

