-- ==== Sys2Proof/Laws/State.lean ====
section
/-! SUPPORT. One lemma per field per update of the state, each true by unfolding, so that no later proof unfolds a record
update. -/

namespace Sys2Proof.Machine

/-! ## respond -/

@[simp] theorem State.respond_req (s : State) (r : Response) : (s.respond r).req = none := rfl
@[simp] theorem State.respond_busy (s : State) (r : Response) : (s.respond r).busy = false := rfl
@[simp] theorem State.respond_rsp (s : State) (r : Response) : (s.respond r).rsp = some r := rfl
@[simp] theorem State.respond_host (s : State) (r : Response) : (s.respond r).host = s.host := rfl
@[simp] theorem State.respond_taken (s : State) (r : Response) : (s.respond r).taken = s.taken := rfl
@[simp] theorem State.respond_callerBuf (s : State) (r : Response) : (s.respond r).callerBuf = s.callerBuf := rfl
@[simp] theorem State.respond_callerDesc (s : State) (r : Response) : (s.respond r).callerDesc = s.callerDesc := rfl
@[simp] theorem State.respond_ret (s : State) (r : Response) : (s.respond r).ret = s.ret := rfl

/-! ## raise -/

@[simp] theorem State.raise_req (s : State) (k : ErrorKind) : (s.raise k).req = none := rfl
@[simp] theorem State.raise_busy (s : State) (k : ErrorKind) : (s.raise k).busy = false := rfl
@[simp] theorem State.raise_rsp (s : State) (k : ErrorKind) : (s.raise k).rsp = some (.err k) := rfl
@[simp] theorem State.raise_host (s : State) (k : ErrorKind) : (s.raise k).host = s.host := rfl
@[simp] theorem State.raise_taken (s : State) (k : ErrorKind) : (s.raise k).taken = s.taken := rfl
@[simp] theorem State.raise_callerBuf (s : State) (k : ErrorKind) : (s.raise k).callerBuf = s.callerBuf := rfl
@[simp] theorem State.raise_callerDesc (s : State) (k : ErrorKind) : (s.raise k).callerDesc = s.callerDesc := rfl
@[simp] theorem State.raise_ret (s : State) (k : ErrorKind) : (s.raise k).ret = s.ret := rfl

/-! ## complete -/

@[simp] theorem State.complete_req (s : State) (o : Except ErrorKind Result) : (s.complete o).req = none := rfl
@[simp] theorem State.complete_busy (s : State) (o : Except ErrorKind Result) : (s.complete o).busy = false := rfl
@[simp] theorem State.complete_rsp (s : State) (o : Except ErrorKind Result) : (s.complete o).rsp = some (responseOf o) := rfl
@[simp] theorem State.complete_host (s : State) (o : Except ErrorKind Result) : (s.complete o).host = s.host := rfl
@[simp] theorem State.complete_taken (s : State) (o : Except ErrorKind Result) : (s.complete o).taken = s.taken := rfl
@[simp] theorem State.complete_callerBuf (s : State) (o : Except ErrorKind Result) : (s.complete o).callerBuf = s.callerBuf := rfl
@[simp] theorem State.complete_callerDesc (s : State) (o : Except ErrorKind Result) : (s.complete o).callerDesc = s.callerDesc := rfl
@[simp] theorem State.complete_ret (s : State) (o : Except ErrorKind Result) : (s.complete o).ret = s.ret := rfl

/-! ## accept -/

@[simp] theorem State.accept_req (s : State) (r : Request) : (s.accept r).req = some r := rfl
@[simp] theorem State.accept_busy (s : State) (r : Request) : (s.accept r).busy = true := rfl
@[simp] theorem State.accept_rsp (s : State) (r : Request) : (s.accept r).rsp = none := rfl
@[simp] theorem State.accept_host (s : State) (r : Request) : (s.accept r).host = s.host := rfl
@[simp] theorem State.accept_taken (s : State) (r : Request) : (s.accept r).taken = s.taken := rfl
@[simp] theorem State.accept_callerBuf (s : State) (r : Request) : (s.accept r).callerBuf = s.callerBuf := rfl
@[simp] theorem State.accept_callerDesc (s : State) (r : Request) : (s.accept r).callerDesc = s.callerDesc := rfl
@[simp] theorem State.accept_ret (s : State) (r : Request) : (s.accept r).ret = s.ret := rfl

/-! ## resetBlock -/

@[simp] theorem State.resetBlock_req (s : State) : s.resetBlock.req = none := rfl
@[simp] theorem State.resetBlock_busy (s : State) : s.resetBlock.busy = false := rfl
@[simp] theorem State.resetBlock_rsp (s : State) : s.resetBlock.rsp = none := rfl
@[simp] theorem State.resetBlock_host (s : State) : s.resetBlock.host = s.host := rfl
@[simp] theorem State.resetBlock_taken (s : State) : s.resetBlock.taken = s.taken := rfl
@[simp] theorem State.resetBlock_callerBuf (s : State) : s.resetBlock.callerBuf = s.callerBuf := rfl
@[simp] theorem State.resetBlock_callerDesc (s : State) : s.resetBlock.callerDesc = s.callerDesc := rfl
@[simp] theorem State.resetBlock_ret (s : State) : s.resetBlock.ret = s.ret := rfl

/-! ## withHost -/

@[simp] theorem State.withHost_req (s : State) (rest : List HostAction) : (s.withHost rest).req = s.req := rfl
@[simp] theorem State.withHost_busy (s : State) (rest : List HostAction) : (s.withHost rest).busy = s.busy := rfl
@[simp] theorem State.withHost_rsp (s : State) (rest : List HostAction) : (s.withHost rest).rsp = s.rsp := rfl
@[simp] theorem State.withHost_host (s : State) (rest : List HostAction) : (s.withHost rest).host = rest := rfl
@[simp] theorem State.withHost_taken (s : State) (rest : List HostAction) : (s.withHost rest).taken = s.taken := rfl
@[simp] theorem State.withHost_callerBuf (s : State) (rest : List HostAction) : (s.withHost rest).callerBuf = s.callerBuf := rfl
@[simp] theorem State.withHost_callerDesc (s : State) (rest : List HostAction) : (s.withHost rest).callerDesc = s.callerDesc := rfl
@[simp] theorem State.withHost_ret (s : State) (rest : List HostAction) : (s.withHost rest).ret = s.ret := rfl

/-! ## adapterTakes -/

@[simp] theorem State.adapterTakes_req (s : State) : s.adapterTakes.req = none := rfl
@[simp] theorem State.adapterTakes_busy (s : State) : s.adapterTakes.busy = false := rfl
@[simp] theorem State.adapterTakes_rsp (s : State) : s.adapterTakes.rsp = none := rfl
@[simp] theorem State.adapterTakes_host (s : State) : s.adapterTakes.host = s.host := rfl
@[simp] theorem State.adapterTakes_taken (s : State) : s.adapterTakes.taken = s.taken := rfl
@[simp] theorem State.adapterTakes_callerBuf (s : State) : s.adapterTakes.callerBuf = s.callerBuf := rfl
@[simp] theorem State.adapterTakes_callerDesc (s : State) : s.adapterTakes.callerDesc = s.callerDesc := rfl
@[simp] theorem State.adapterTakes_ret (s : State) : s.adapterTakes.ret = s.ret := rfl

/-! ## writeCallerBuf -/

@[simp] theorem State.writeCallerBuf_req (s : State) (p : List Byte) : (s.writeCallerBuf p).req = s.req := rfl
@[simp] theorem State.writeCallerBuf_busy (s : State) (p : List Byte) : (s.writeCallerBuf p).busy = s.busy := rfl
@[simp] theorem State.writeCallerBuf_rsp (s : State) (p : List Byte) : (s.writeCallerBuf p).rsp = s.rsp := rfl
@[simp] theorem State.writeCallerBuf_host (s : State) (p : List Byte) : (s.writeCallerBuf p).host = s.host := rfl
@[simp] theorem State.writeCallerBuf_taken (s : State) (p : List Byte) : (s.writeCallerBuf p).taken = s.taken := rfl
@[simp] theorem State.writeCallerBuf_callerBuf (s : State) (p : List Byte) : (s.writeCallerBuf p).callerBuf = writtenOver p s.callerBuf := rfl
@[simp] theorem State.writeCallerBuf_callerDesc (s : State) (p : List Byte) : (s.writeCallerBuf p).callerDesc = s.callerDesc := rfl
@[simp] theorem State.writeCallerBuf_ret (s : State) (p : List Byte) : (s.writeCallerBuf p).ret = s.ret := rfl

/-! ## writeCallerDesc -/

@[simp] theorem State.writeCallerDesc_req (s : State) (d : Descriptor) : (s.writeCallerDesc d).req = s.req := rfl
@[simp] theorem State.writeCallerDesc_busy (s : State) (d : Descriptor) : (s.writeCallerDesc d).busy = s.busy := rfl
@[simp] theorem State.writeCallerDesc_rsp (s : State) (d : Descriptor) : (s.writeCallerDesc d).rsp = s.rsp := rfl
@[simp] theorem State.writeCallerDesc_host (s : State) (d : Descriptor) : (s.writeCallerDesc d).host = s.host := rfl
@[simp] theorem State.writeCallerDesc_taken (s : State) (d : Descriptor) : (s.writeCallerDesc d).taken = s.taken := rfl
@[simp] theorem State.writeCallerDesc_callerBuf (s : State) (d : Descriptor) : (s.writeCallerDesc d).callerBuf = s.callerBuf := rfl
@[simp] theorem State.writeCallerDesc_callerDesc (s : State) (d : Descriptor) : (s.writeCallerDesc d).callerDesc = d := rfl
@[simp] theorem State.writeCallerDesc_ret (s : State) (d : Descriptor) : (s.writeCallerDesc d).ret = s.ret := rfl

/-! ## returnCall -/

@[simp] theorem State.returnCall_req (s : State) (c : AdapterCode) (w : Nat) : (s.returnCall c w).req = s.req := rfl
@[simp] theorem State.returnCall_busy (s : State) (c : AdapterCode) (w : Nat) : (s.returnCall c w).busy = s.busy := rfl
@[simp] theorem State.returnCall_rsp (s : State) (c : AdapterCode) (w : Nat) : (s.returnCall c w).rsp = s.rsp := rfl
@[simp] theorem State.returnCall_host (s : State) (c : AdapterCode) (w : Nat) : (s.returnCall c w).host = s.host := rfl
@[simp] theorem State.returnCall_taken (s : State) (c : AdapterCode) (w : Nat) : (s.returnCall c w).taken = s.taken := rfl
@[simp] theorem State.returnCall_callerBuf (s : State) (c : AdapterCode) (w : Nat) : (s.returnCall c w).callerBuf = s.callerBuf := rfl
@[simp] theorem State.returnCall_callerDesc (s : State) (c : AdapterCode) (w : Nat) : (s.returnCall c w).callerDesc = s.callerDesc := rfl
@[simp] theorem State.returnCall_ret (s : State) (c : AdapterCode) (w : Nat) : (s.returnCall c w).ret = some ⟨c, w⟩ := rfl

/-! ## answered -/

@[simp] theorem answered_req (s : State) (r : Response) : (answered s r).req = none := rfl
@[simp] theorem answered_busy (s : State) (r : Response) : (answered s r).busy = false := rfl
@[simp] theorem answered_rsp (s : State) (r : Response) : (answered s r).rsp = some r := rfl
@[simp] theorem answered_host (s : State) (r : Response) : (answered s r).host = s.host := rfl
@[simp] theorem answered_taken (s : State) (r : Response) : (answered s r).taken = s.taken := rfl
@[simp] theorem answered_callerBuf (s : State) (r : Response) : (answered s r).callerBuf = s.callerBuf := rfl
@[simp] theorem answered_callerDesc (s : State) (r : Response) : (answered s r).callerDesc = s.callerDesc := rfl
@[simp] theorem answered_ret (s : State) (r : Response) : (answered s r).ret = s.ret := rfl

/-! ## takeResponse -/

@[simp] theorem State.takeResponse_req (s : State) : s.takeResponse.req = s.req := by
  unfold State.takeResponse; split <;> rfl
@[simp] theorem State.takeResponse_busy (s : State) : s.takeResponse.busy = s.busy := by
  unfold State.takeResponse; split <;> rfl
@[simp] theorem State.takeResponse_host (s : State) : s.takeResponse.host = s.host := by
  unfold State.takeResponse; split <;> rfl
@[simp] theorem State.takeResponse_callerBuf (s : State) : s.takeResponse.callerBuf = s.callerBuf := by
  unfold State.takeResponse; split <;> rfl
@[simp] theorem State.takeResponse_callerDesc (s : State) : s.takeResponse.callerDesc = s.callerDesc := by
  unfold State.takeResponse; split <;> rfl
@[simp] theorem State.takeResponse_ret (s : State) : s.takeResponse.ret = s.ret := by
  unfold State.takeResponse; split <;> rfl
@[simp] theorem State.takeResponse_rsp (s : State) : s.takeResponse.rsp = none := by
  unfold State.takeResponse; split <;> simp_all
@[simp] theorem State.takeResponse_taken (s : State) : s.takeResponse.taken = s.taken ++ s.rsp.toList := by
  unfold State.takeResponse; split <;> simp_all

/-! ## The same state by two names -/

theorem State.respond_eq_answered (s : State) (r : Response) : s.respond r = answered s r := rfl
theorem State.complete_eq_answered (s : State) (o : Except ErrorKind Result) :
    s.complete o = answered s (responseOf o) := rfl
theorem State.raise_eq_answered (s : State) (k : ErrorKind) : s.raise k = answered s (.err k) := rfl
theorem State.refuse_eq_answered (s : State) : s.refuse = answered s (.err .refused) := rfl

end Sys2Proof.Machine
end

