-- ==== Sys2Proof/Laws/Step.lean ====
section
/-! SUPPORT. What an operation can do, and what a step can do, each said once. -/

namespace Sys2Proof.Machine

/-- The rows that are adapter calls. -/
def isCall : Instr → Bool
  | .adapterMaster .. => true
  | .adapterSlave _ => true
  | _ => false

/-- Every row that is no adapter call answers, with a response that does not depend on the state. -/
theorem exec_operation {i : Instr} (h : isCall i = false) : ∃ r : Response, ∀ s : State, exec i s = .next (answered s r) := by
  cases i <;> first | exact ⟨_, fun _ => rfl⟩ | cases h

/-- What the parser answers, by R110's step 1. -/
theorem midiParse_cases (buf : List Byte) (len : Nat) :
    ((len = 0 ∨ buf.length = 0) ∧ midiParse buf len = .error .emptyBuffer) ∨
    (0 < len ∧ 0 < buf.length ∧ buf.length < len ∧ midiParse buf len = .error (.bufferTooSmall len buf.length)) ∨
    ∃ h : 1 ≤ len ∧ len ≤ buf.length, midiParse buf len = .ok (eventOfMessage (decodeMessage buf len h)) := by
  unfold midiParse
  split
  · exact .inl ⟨‹_›, rfl⟩
  · split
    · exact .inr (.inl ⟨by omega, by omega, ‹_›, rfl⟩)
    · exact .inr (.inr ⟨⟨by omega, by omega⟩, rfl⟩)

/-- The one fault: a state that moves nothing because BUSY = 1 with REQ empty. -/
theorem blockMove_eq_run {s : State} {r : Request} (h : s.req = some r) : blockMove s = .run (.request r) s := by
  simp [blockMove, h]

/-- While BUSY = 1 and no reset comes next, the block performs its request. -/
theorem nextMove_busy {s : State} {r : Request} (b : s.busy = true) (q : s.req = some r) (n : noResetNext s) :
    nextMove s = .run (.request r) s := by
  unfold nextMove
  split <;> simp_all [blockMove, noResetNext]

/-- The step of a busy block, by what the decoder says of its request. -/
theorem step_busy {s : State} {r : Request} (b : s.busy = true) (q : s.req = some r) (n : noResetNext s) :
    step s = match decode (.request r) with
      | .ok i => exec i s
      | .error _ => .next (answered s (.err .refused)) := by
  simp only [step, nextMove_busy b q n]
  rfl

/-- Everything a step that answers can have done. -/
theorem step_cases {s t : State} (h : step s = .next t) :
    (∃ rest, s.host = .reset :: rest ∧ t = (s.withHost rest).resetBlock) ∨
    (∃ r rest, s.busy = false ∧ s.host = .issue r :: rest ∧ t = (s.withHost rest).accept r) ∨
    (∃ rest, s.busy = false ∧ s.host = .take :: rest ∧ t = (s.withHost rest).takeResponse) ∨
    (s.busy = false ∧ s.host = [] ∧ t = s) ∨
    (∃ c rest i, s.busy = false ∧ s.host = .call c :: rest ∧ decode (.call c) = .ok i ∧
      exec i (s.withHost rest) = .next t) ∨
    (∃ c rest e, s.busy = false ∧ s.host = .call c :: rest ∧ decode (.call c) = .error e ∧ t = (s.withHost rest).refuse) ∨
    (∃ r i, s.busy = true ∧ s.req = some r ∧ decode (.request r) = .ok i ∧ exec i s = .next t) ∨
    (∃ r e, s.busy = true ∧ s.req = some r ∧ decode (.request r) = .error e ∧ t = s.refuse) := by
  have busy (b : s.busy = true) (m : nextMove s = blockMove s) :
      (∃ r i, s.busy = true ∧ s.req = some r ∧ decode (.request r) = .ok i ∧ exec i s = .next t) ∨
      (∃ r e, s.busy = true ∧ s.req = some r ∧ decode (.request r) = .error e ∧ t = s.refuse) := by
    simp only [step, m] at h
    cases q : s.req with
    | none => simp [blockMove, q] at h
    | some r =>
      rw [blockMove_eq_run q] at h
      cases d : decode (.request r) with
      | ok i => exact .inl ⟨r, i, b, rfl, d, by simpa [d] using h⟩
      | error e => exact .inr ⟨r, e, b, rfl, d, by simpa [d] using h.symm⟩
  rcases hh : s.host with _ | ⟨a, rest⟩
  · by_cases b : s.busy = true
    · exact .inr (.inr (.inr (.inr (.inr (.inr (busy b (by simp [nextMove, hh, b])))))))
    · exact .inr (.inr (.inr (.inl ⟨by simpa using b, rfl, by simpa [step, nextMove, hh, b] using h.symm⟩)))
  · cases a with
    | reset => exact .inl ⟨rest, rfl, by simpa [step, nextMove, hh] using h.symm⟩
    | issue r =>
      by_cases b : s.busy = true
      · exact .inr (.inr (.inr (.inr (.inr (.inr (busy b (by simp [nextMove, hh, b])))))))
      · exact .inr (.inl ⟨r, rest, by simpa using b, rfl, by simpa [step, nextMove, hh, b] using h.symm⟩)
    | take =>
      by_cases b : s.busy = true
      · exact .inr (.inr (.inr (.inr (.inr (.inr (busy b (by simp [nextMove, hh, b])))))))
      · exact .inr (.inr (.inl ⟨rest, by simpa using b, rfl, by simpa [step, nextMove, hh, b] using h.symm⟩))
    | call c =>
      by_cases b : s.busy = true
      · exact .inr (.inr (.inr (.inr (.inr (.inr (busy b (by simp [nextMove, hh, b])))))))
      · cases d : decode (.call c) with
        | ok i =>
          exact .inr (.inr (.inr (.inr (.inl
            ⟨c, rest, i, by simpa using b, rfl, d, by simpa [step, nextMove, hh, b, d] using h⟩))))
        | error e =>
          exact .inr (.inr (.inr (.inr (.inr (.inl
            ⟨c, rest, e, by simpa using b, rfl, d, by simpa [step, nextMove, hh, b, d] using h.symm⟩)))))

/-! ## The adapter -/

/-- R198 and R196: the master entry point's outcome after an accepted descriptor. -/
theorem adapterMaster_cases (e : MidiEvent) (cap : Nat) (s : State) :
    (∃ k, masterRequest e = .error k ∧ adapterMaster e cap s = s.adapterTakes.returnCall .invalidMasterEvent 0) ∨
    (∃ p, masterRequest e = .ok p ∧ cap < p.length ∧ adapterMaster e cap s = s.adapterTakes.returnCall .bufferTooSmall 0) ∨
    ∃ p, masterRequest e = .ok p ∧ p.length ≤ cap ∧
      adapterMaster e cap s = (s.adapterTakes.writeCallerBuf p).returnCall .success p.length := by
  unfold adapterMaster
  cases h : masterRequest e with
  | error k => exact .inl ⟨k, rfl, rfl⟩
  | ok p =>
    by_cases c : cap < p.length
    · exact .inr (.inl ⟨p, rfl, c, by simp [c]⟩)
    · exact .inr (.inr ⟨p, rfl, by omega, by simp [c]⟩)

end Sys2Proof.Machine
end

