-- ==== Sys2Proof/Machine/Assembly.lean ====
section
/-! DEFINITION. The textual notation of requests and responses, 30_encoding.md R93: numbers in decimal, byte sequences in
hex. A row of the table that is no block operation has no notation. -/

namespace Sys2Proof.Machine

/-! ## Numbers and sequences -/

def digitChar (d : Nat) : Char := if d < 10 then Char.ofNat (48 + d) else Char.ofNat (55 + d)

/-- The digits of a number in base `b`, most significant first; `fuel` bounds their count. -/
def digitsOf (b : Nat) : Nat → Nat → List Char
  | 0, _ => []
  | fuel + 1, n => if n < b then [digitChar n] else digitsOf b fuel (n / b) ++ [digitChar (n % b)]

def asmNat (n : Nat) : List Char := digitsOf 10 (n + 1) n

def asmHexByte (b : Byte) : List Char := [digitChar (b.toNat / 16), digitChar (b.toNat % 16)]

def asmTwoDigits (n : Nat) : List Char := if n < 10 then '0' :: asmNat n else asmNat n

def asmJoin (sep : List Char) : List (List Char) → List Char
  | [] => []
  | [x] => x
  | x :: rest => x ++ sep ++ asmJoin sep rest

/-- Braces by their code points. -/
def braced (t : List Char) : List Char := Char.ofNat 0x7B :: t ++ [Char.ofNat 0x7D]

def bracketed (t : List Char) : List Char := '[' :: t ++ [']']

def called (name : List Char) (args : List (List Char)) : List Char :=
  name ++ '(' :: asmJoin [',', ' '] args ++ [')']

/-! ## Values -/

def asmBytes (s : List Byte) : List Char := bracketed (asmJoin [' '] (s.map asmHexByte))

def asmHeader (h : PayloadHeader) : List Char :=
  braced (['f', '='] ++ asmNat h.flags.toNat ++ [',', ' ', 'l', '='] ++ asmNat h.len.toNat)

def asmByte (b : Byte) : List Char := asmNat b.toNat

def asmEvent : MidiEvent → List Char
  | .mtcQuarter t v => called "MtcQuarter".toList [asmByte t, asmByte v]
  | .mtcFull h m s f => called "MtcFull".toList [asmByte h, asmByte m, asmByte s, asmByte f]
  | .mmcStop => "Stop".toList
  | .mmcPlay => "Play".toList
  | .mmcLocate h m s f u => called "Locate".toList [asmByte h, asmByte m, asmByte s, asmByte f, asmByte u]
  | .other bytes => "Other".toList ++ asmBytes bytes

def asmTimecode (f : MtcFullFrame) : List Char :=
  asmJoin [':'] ([f.hours, f.minutes, f.seconds, f.frames].map fun b => asmTwoDigits b.toNat)

def asmQuarterFrames (q : QuarterFrameArray) : List Char :=
  asmJoin [' '] ((quarterFrameList q).map fun a => '(' :: asmByte a.frameType ++ ',' :: asmByte a.value ++ [')'])

/-! ## Requests and responses -/

def asmLine (mnemonic : List Char) (args : List (List Char)) : List Char :=
  mnemonic ++ ' ' :: asmJoin [',', ' '] args

/-- `MNEMONIC operand, operand`; none for a row that is no block operation. -/
def asmRequest : Instr → Option (List Char)
  | .hdrNew f l => some (asmLine "HDR_NEW".toList [asmByte f, asmByte l])
  | .hdrSerialize h => some (asmLine "HDR_SERIALIZE".toList [asmHeader h])
  | .hdrParse buf => some (asmLine "HDR_PARSE".toList [asmBytes buf])
  | .midiParse buf len => some (asmLine "MIDI_PARSE".toList [asmBytes buf, asmNat len])
  | .midiBuild e => some (asmLine "MIDI_BUILD".toList [asmEvent e])
  | .usToSmpte us => some (asmLine "US_TO_SMPTE".toList [digitsOf 10 20 us.toNat])
  | .smpteToUs f => some (asmLine "SMPTE_TO_US".toList [asmTimecode f])
  | .smpteToQf f => some (asmLine "SMPTE_TO_QF".toList [asmTimecode f])
  | .qfToSmpte q => some (asmLine "QF_TO_SMPTE".toList [asmQuarterFrames q])
  | .masterFlow e => some (asmLine "MASTER_FLOW".toList [asmEvent e])
  | .slaveFlow p => some (asmLine "SLAVE_FLOW".toList [asmBytes p])
  | .reservedOpcode _ | .msgMtcQuarter .. | .msgMtcFull .. | .msgMmcStop | .msgMmcPlay | .msgMmcLocate .. => none
  | .msgOther _ | .payloadHeader .. | .netsyncPayload .. | .adapterMaster .. | .adapterSlave _ => none

def asmResult : Result → List Char
  | .header h => asmHeader h
  | .bytes s => asmBytes s
  | .event e => asmEvent e
  | .us us => digitsOf 10 20 us.toNat
  | .timecode f => asmTimecode f
  | .quarterFrames q => asmQuarterFrames q

def asmError : ErrorKind → List Char
  | .emptyBuffer => "EmptyBuffer".toList
  | .bufferTooSmall r a =>
    "BufferTooSmall".toList ++ braced ("requested=".toList ++ asmNat r ++ ", available=".toList ++ asmNat a)
  | .insufficientHeaderData => "InsufficientHeaderData".toList
  | .invalidMidiData p b =>
    "InvalidMidiData".toList ++ braced ("position=".toList ++ asmNat p ++ ", byte=".toList ++ asmByte b)
  | .incompleteFrame => "IncompleteFrame".toList
  | .invalidFrameType => "InvalidFrameType".toList
  | .invalidValue => "InvalidValue".toList
  | .invalidMasterEvent => "InvalidMasterEvent".toList
  | .invalidSlaveEvent => "InvalidSlaveEvent".toList
  | .refused => "REFUSED".toList

/-- `-> OK value` or `-> ERR Kind`. -/
def asmResponse : Response → List Char
  | .ok r => "-> OK ".toList ++ asmResult r
  | .err k => "-> ERR ".toList ++ asmError k

end Sys2Proof.Machine
end

