-- ==== Sys2Proof/Tests/Slice0.lean ====
section
/-! SUPPORT. The model's own tests: the well-formedness smoke, one written-out word for every row, vectors of
95_test_vectors.md (the id stands before each), and a witness for the hypotheses of every statement. -/

namespace Sys2Proof.Tests

open Sys2Proof.Machine

/-! ## Helpers -/

def rspOf : Host.Outcome State Fault Refusal → Option Response
  | .next t => t.rsp
  | _ => none

def retOf : Host.Outcome State Fault Refusal → Option CallReturn
  | .next t => t.ret
  | _ => none

def bufOf : Host.Outcome State Fault Refusal → List Byte
  | .next t => t.callerBuf
  | _ => []

def descOf : Host.Outcome State Fault Refusal → Option Descriptor
  | .next t => some t.callerDesc
  | _ => none

/-- The response of an instruction right after reset. -/
def run (i : Instr) : Option Response := rspOf (exec i State.reset)

def frames (l : List (Byte × Byte)) : Option QuarterFrameArray :=
  match l.map fun a => MtcQuarterFrame.mk a.1 a.2 with
  | [a, b, c, d, e, f, g, h] => some ⟨a, b, c, d, e, f, g, h⟩
  | _ => none

/-- QS-1's array with frame 7 (type, value) as given. -/
def base (q2 q7 : MtcQuarterFrame) : QuarterFrameArray :=
  ⟨⟨0, 0xC⟩, ⟨1, 0⟩, q2, ⟨3, 2⟩, ⟨4, 7⟩, ⟨5, 1⟩, ⟨6, 1⟩, q7⟩

def tooLong : List Byte := List.replicate (Config.bufCap + 1) 0

theorem tooLong_length : tooLong.length = Config.bufCap + 1 := by simp [tooLong]

theorem noReset_nil {s : State} (h : s.host = []) : noResetNext s := by
  intro rest
  simp [h]

/-! ## Well-formedness: an ill-formed term for each check -/

theorem test_wf_hdrParse_long : (Instr.hdrParse tooLong).wellFormed = false := by
  simp [Instr.wellFormed, Instr.fits, fitsBufCap, tooLong_length]

theorem test_wf_midiParse_long : (Instr.midiParse tooLong 1).wellFormed = false := by
  simp [Instr.wellFormed, Instr.fits, fitsBufCap, tooLong_length]

/-- R9: one above the bound, and the bound itself. -/
theorem test_wf_midiParse_len : (Instr.midiParse [] (Config.bufCap + 1)).wellFormed = false ∧
    (Instr.midiParse [] Config.bufCap).wellFormed = true := by
  simp [Instr.wellFormed, Instr.fits, fitsBufCap]

theorem test_wf_slaveFlow_long : (Instr.slaveFlow tooLong).wellFormed = false := by
  simp [Instr.wellFormed, Instr.fits, fitsBufCap, tooLong_length]

theorem test_wf_midiBuild_long : (Instr.midiBuild (.other tooLong)).wellFormed = false := by
  simp [Instr.wellFormed, Instr.fits, MidiEvent.fits, fitsBufCap, tooLong_length]

theorem test_wf_masterFlow_long : (Instr.masterFlow (.other tooLong)).wellFormed = false := by
  simp [Instr.wellFormed, Instr.fits, MidiEvent.fits, fitsBufCap, tooLong_length]

theorem test_wf_msgOther_long : (Instr.msgOther tooLong).wellFormed = false := by
  simp [Instr.wellFormed, Instr.fits, fitsBufCap, tooLong_length]

theorem test_wf_netsyncPayload_long : (Instr.netsyncPayload ⟨0, 0⟩ tooLong).wellFormed = false := by
  simp [Instr.wellFormed, Instr.fits, tooLong_length]

theorem test_wf_reserved_listed : (Instr.reservedOpcode 0x11).wellFormed = false := by decide

theorem test_wf_full_f7 : (Instr.msgMtcFull 0 0 0 0xF7).wellFormed = false := by decide

theorem test_wf_locate_f7 : (Instr.msgMmcLocate 1 2 3 4 0xF7).wellFormed = false := by decide

theorem test_wf_other_empty : (Instr.msgOther []).wellFormed = false := by decide

theorem test_wf_other_quarter : (Instr.msgOther [0xF1, 0x23]).wellFormed = false := by decide

theorem test_wf_other_stop : (Instr.msgOther [0xF0, 0x7F, 0x7F, 0x06, 0x01, 0xF7]).wellFormed = false := by decide

theorem test_wf_other_early_end : (Instr.msgOther [0xF0, 0x7F, 0x7F, 0x06, 0x03, 0xF7, 0x00]).wellFormed = false := by
  decide

/-! ## Decoding: a word for every row, written out from R70, R80 to R90 -/

theorem test_decode_hdrNew : decode (.request ⟨0x01, [.num 0, .num 13]⟩) = .ok (.hdrNew 0 13) := by decide
theorem test_decode_hdrSerialize : decode (.request ⟨0x02, [.header 15 2]⟩) = .ok (.hdrSerialize ⟨15, 2⟩) := by decide
theorem test_decode_hdrParse : decode (.request ⟨0x03, [.bytes [0x0D, 0xF0]]⟩) = .ok (.hdrParse [0x0D, 0xF0]) := by decide
theorem test_decode_midiParse :
    decode (.request ⟨0x10, [.bytes [0xF1, 0x23], .num 2]⟩) = .ok (.midiParse [0xF1, 0x23] 2) := by decide
theorem test_decode_midiBuild : decode (.request ⟨0x11, [.event 4 [1, 2, 3, 4, 50]]⟩) =
    .ok (.midiBuild (.mmcLocate 1 2 3 4 50)) := by decide
theorem test_decode_usToSmpte : decode (.request ⟨0x20, [.num 5025400000]⟩) = .ok (.usToSmpte 5025400000) := by decide
theorem test_decode_smpteToUs : decode (.request ⟨0x21, [.timecode [1, 23, 45, 12]]⟩) = .ok (.smpteToUs ⟨1, 23, 45, 12⟩) := by
  decide
theorem test_decode_smpteToQf : decode (.request ⟨0x22, [.timecode [1, 23, 45, 12]]⟩) = .ok (.smpteToQf ⟨1, 23, 45, 12⟩) := by
  decide
theorem test_decode_qfToSmpte : decode (.request ⟨0x23, [.quarterFrames
    [(0, 0xC), (1, 0), (2, 0xD), (3, 2), (4, 7), (5, 1), (6, 1), (7, 6)]]⟩) =
    .ok (.qfToSmpte (base ⟨2, 0xD⟩ ⟨7, 6⟩)) := by decide
theorem test_decode_masterFlow : decode (.request ⟨0x30, [.event 5 [0xF8]]⟩) = .ok (.masterFlow (.other [0xF8])) := by decide
theorem test_decode_slaveFlow : decode (.request ⟨0x31, [.bytes [0x02, 0xF1, 0x05]]⟩) = .ok (.slaveFlow [0x02, 0xF1, 0x05]) := by
  decide
theorem test_decode_reserved : decode (.request ⟨0x04, [.num 7]⟩) = .ok (.reservedOpcode 0x04) := by decide
theorem test_decode_quarter : decode (.wire [0xF1, 0b00100011]) = .ok (.msgMtcQuarter 2 3) := by decide
theorem test_decode_full : decode (.wire [0xF0, 0x7F, 0x7F, 0x01, 0x01, 0x17, 0x3B, 0x3B, 0x1D, 0xF7]) =
    .ok (.msgMtcFull 0x17 0x3B 0x3B 0x1D) := by decide
theorem test_decode_stop : decode (.wire [0xF0, 0x7F, 0x7F, 0x06, 0x01, 0xF7]) = .ok .msgMmcStop := by decide
theorem test_decode_play : decode (.wire [0xF0, 0x7F, 0x7F, 0x06, 0x02, 0xF7]) = .ok .msgMmcPlay := by decide
theorem test_decode_locate :
    decode (.wire [0xF0, 0x7F, 0x7F, 0x06, 0x44, 0x06, 0x01, 0x01, 0x02, 0x03, 0x04, 0x32, 0xF7]) =
    .ok (.msgMmcLocate 1 2 3 4 0x32) := by decide
theorem test_decode_other : decode (.wire [0x90, 0x3C, 0x7F]) = .ok (.msgOther [0x90, 0x3C, 0x7F]) := by decide
theorem test_decode_header : decode (.header 0b10100101) = .ok (.payloadHeader 10 5) := by decide
theorem test_decode_payload : decode (.payload [0xF2, 0xF1, 0x05]) = .ok (.netsyncPayload ⟨15, 2⟩ [0xF1, 0x05]) := by decide
theorem test_decode_master : decode (.call (.master ⟨2, ⟨0, 0, 0, 0, 0, 0, 0, 0⟩, 0⟩ 7)) =
    .ok (.adapterMaster ⟨2, ⟨0, 0, 0, 0, 0, 0, 0, 0⟩, 0⟩ 7) := by decide
theorem test_decode_slave : decode (.call (.slave [])) = .ok (.adapterSlave []) := by decide

/-- X-4: a quarter-frame array of 7 entries. -/
theorem test_reject_seven_frames : decode (.request ⟨0x23, [.quarterFrames (List.replicate 7 (0, 0))]⟩) = .error .operandShape := by
  decide
/-- R66: the decoded row would keep two bytes of the message, which is over-long all the same. -/
theorem test_reject_long_message : decode (.wire (0xF1 :: 0x23 :: tooLong)) = .error .operandTooLong :=
  decode_wire_too_long (by simp [tooLong_length]; omega)
/-- R73: an event variant outside R25. -/
theorem test_reject_event_tag : decode (.request ⟨0x11, [.event 6 []]⟩) = .error .operandShape := by decide
/-- R73: an 8-bit field of 256. -/
theorem test_reject_wide_field : decode (.request ⟨0x01, [.num 256, .num 0]⟩) = .error .operandShape := by decide

theorem test_table_word_quarter : decodeTableWord 16 0xF123 = some (.msgMtcQuarter 2 3) := by decide
theorem test_table_word_qf : decodeTableWord 8 0x23 =
    some (.qfToSmpte ⟨⟨0, 0⟩, ⟨0, 0⟩, ⟨0, 0⟩, ⟨0, 0⟩, ⟨0, 0⟩, ⟨0, 0⟩, ⟨0, 0⟩, ⟨0, 0⟩⟩) := by decide
/-- The placed word runs as the first step after reset. -/
theorem test_fetch_word_runs : rspOf (step (State.reset.withFetchWord 16 0xF123)) =
    some (.ok (.event (.mtcQuarter 2 3))) := by decide

/-! ## Vectors of 95_test_vectors.md -/

/-- H-2. -/
theorem test_hdrNew_wraps : run (.hdrNew 0x10 16) = some (.ok (.header ⟨0, 0⟩)) := by decide
/-- H-7. -/
theorem test_hdrSerialize_flags_high : run (.hdrSerialize ⟨3, 0⟩) = some (.ok (.bytes [0x30])) := by decide
/-- H-9. -/
theorem test_hdrParse_empty : run (.hdrParse []) = some (.err .insufficientHeaderData) := by decide
/-- H-12. -/
theorem test_hdrParse_split : run (.hdrParse [0xA5, 0x00, 0x00]) = some (.ok (.header ⟨10, 5⟩)) := by decide
/-- P-9. -/
theorem test_midiParse_empty_first : run (.midiParse [] 5) = some (.err .emptyBuffer) := by decide
/-- P-21. -/
theorem test_midiParse_slice_beyond_len : run (.midiParse [0xF0, 0x7F, 0x7F, 0x06, 0x03, 0xF7, 0x00] 2) =
    some (.ok (.event (.other [0xF0, 0x7F, 0x7F, 0x06, 0x03, 0xF7]))) := by decide
/-- B-3. -/
theorem test_midiBuild_truncates : run (.midiBuild (.mtcQuarter 0x10 0x1F)) = some (.ok (.bytes [0xF1, 0x0F])) := by decide
/-- B-7. -/
theorem test_midiBuild_subframe : run (.midiBuild (.mmcLocate 1 2 3 4 50)) =
    some (.ok (.bytes [0xF0, 0x7F, 0x7F, 0x06, 0x44, 0x06, 0x01, 0x01, 0x02, 0x03, 0x04, 0x00, 0xF7])) := by decide
/-- T-7: just below a tie's next frame. -/
theorem test_usToSmpte_below_half : run (.usToSmpte 83333) = some (.ok (.timecode ⟨0, 0, 0, 2⟩)) := by decide
/-- T-17: binary64, not the integer form. -/
theorem test_usToSmpte_binary64 : run (.usToSmpte 12602243923581549388) = some (.ok (.timecode ⟨16, 6, 21, 17⟩)) := by
  decide
/-- U-3. -/
theorem test_smpteToUs_order : run (.smpteToUs ⟨0, 0, 0, 3⟩) = some (.ok (.us 100000)) := by decide
/-- U-7. -/
theorem test_smpteToUs_largest : run (.smpteToUs ⟨255, 255, 255, 255⟩) = some (.ok (.us 933563500000)) := by decide
/-- QS-1. -/
theorem test_smpteToQf_typical : run (.smpteToQf ⟨1, 23, 45, 12⟩) = some (.ok (.quarterFrames (base ⟨2, 0xD⟩ ⟨7, 6⟩))) := by
  decide
/-- QS-6. -/
theorem test_smpteToQf_drops_bit5 : run (.smpteToQf ⟨40, 0, 0, 0⟩) = (frames
    [(0, 0), (1, 0), (2, 0), (3, 0), (4, 0), (5, 0), (6, 8), (7, 6)]).map (.ok <| .quarterFrames ·) := by decide
/-- Q-14. -/
theorem test_qfToSmpte_bit3_ignored : run (.qfToSmpte (base ⟨2, 0xD⟩ ⟨7, 0xF⟩)) = some (.ok (.timecode ⟨17, 23, 45, 12⟩)) := by
  decide
/-- Q-6: a bad value at index 0 before a bad type at index 2. -/
theorem test_qfToSmpte_check_order : run (.qfToSmpte
    ⟨⟨0, 0x10⟩, ⟨1, 0⟩, ⟨7, 0xD⟩, ⟨3, 2⟩, ⟨4, 7⟩, ⟨5, 1⟩, ⟨6, 1⟩, ⟨7, 6⟩⟩) = some (.err .invalidValue) := by decide
/-- F-6. -/
theorem test_masterFlow_truncates : run (.masterFlow (.mtcQuarter 0x12 0x1F)) = some (.ok (.bytes [0x02, 0xF1, 0x2F])) := by
  decide
/-- F-8. -/
theorem test_masterFlow_other : run (.masterFlow (.other [])) = some (.err .invalidMasterEvent) := by decide
/-- S-9. -/
theorem test_slaveFlow_slice : run (.slaveFlow [0x01, 0xF0, 0x7F, 0x7F, 0x06, 0x01, 0xF7]) = some (.ok (.event .mmcStop)) := by
  decide
/-- S-6. -/
theorem test_slaveFlow_short : run (.slaveFlow [0x05, 0xF1, 0x05]) = some (.err .invalidSlaveEvent) := by decide
/-- X-1. -/
theorem test_reserved_refused : run (.reservedOpcode 0x00) = some (.err .refused) := by decide
/-- P-2's field range, from the message itself. -/
theorem test_msgMtcQuarter_high_type : run (.msgMtcQuarter 15 3) = some (.ok (.event (.mtcQuarter 15 3))) := by decide
/-- P-13. -/
theorem test_msgMtcFull : run (.msgMtcFull 1 0x23 0x45 0x67) = some (.ok (.event (.mtcFull 1 0x23 0x45 0x67))) := by decide
/-- P-14. -/
theorem test_msgMmcStop : run .msgMmcStop = some (.ok (.event .mmcStop)) := by decide
/-- P-15. -/
theorem test_msgMmcPlay : run .msgMmcPlay = some (.ok (.event .mmcPlay)) := by decide
/-- P-16: the wire subframe 0x32 is discarded. -/
theorem test_msgMmcLocate : run (.msgMmcLocate 1 2 3 4 0x32) = some (.ok (.event (.mmcLocate 1 2 3 4 0))) := by decide
/-- P-11. -/
theorem test_msgOther : run (.msgOther [0x90, 0x3C, 0x7F]) = some (.ok (.event (.other [0x90, 0x3C, 0x7F]))) := by decide
/-- H-12's byte. -/
theorem test_payloadHeader : run (.payloadHeader 10 5) = some (.ok (.header ⟨10, 5⟩)) := by decide
/-- S-10. -/
theorem test_netsyncPayload_flags_ignored : run (.netsyncPayload ⟨15, 2⟩ [0xF1, 0x05]) = some (.ok (.event (.mtcQuarter 0 5))) := by
  decide
/-- A-3. -/
theorem test_adapterMaster_exact_capacity :
    let o := exec (.adapterMaster ⟨2, ⟨9, 9, 9, 9, 9, 9, 9, 9⟩, 0⟩ 7) State.reset
    (retOf o, bufOf o) = (some ⟨.success, 7⟩, [0x06, 0xF0, 0x7F, 0x7F, 0x06, 0x01, 0xF7]) := by decide
/-- A-4. -/
theorem test_adapterMaster_small_buffer :
    let o := exec (.adapterMaster ⟨1, ⟨1, 2, 3, 4, 0, 0, 0, 0⟩, 4⟩ 10) State.reset
    (retOf o, bufOf o) = (some ⟨.bufferTooSmall, 0⟩, []) := by decide
/-- A-9. -/
theorem test_adapterSlave_full :
    let o := exec (.adapterSlave [0x0A, 0xF0, 0x7F, 0x7F, 0x01, 0x01, 0x01, 0x02, 0x03, 0x04, 0xF7]) State.reset
    (retOf o, descOf o) = (some ⟨.success, 0⟩, some ⟨1, ⟨1, 2, 3, 4, 0, 0, 0, 0⟩, 4⟩) := by decide
/-- A-12. -/
theorem test_adapterSlave_other : retOf (exec (.adapterSlave [0x03, 0x90, 0x3C, 0x7F]) State.reset) =
    some ⟨.invalidEventType, 0⟩ := by decide

/-- Log 21: an exact tie above R151's bound that binary64 rounds down, so R152's `3j + 2` does not hold there. -/
theorem test_tie_above_bound : framenumOfUs 2877604582262650000 = 86328137467879 ∧
    2877604582262650000 = 50000 + 100000 * 28776045822626 ∧ 3 * 28776045822626 + 2 = 86328137467880 := by decide

/-- R93's examples of notation. -/
theorem test_asm_request : asmRequest (.midiBuild (.mmcLocate 1 2 3 4 50)) = some "MIDI_BUILD Locate(1, 2, 3, 4, 50)".toList := by
  decide
theorem test_asm_response : asmResponse (.ok (.bytes [0xF1, 0x23])) = "-> OK [F1 23]".toList := by decide

/-! ## Witnesses: a concrete case that meets the hypotheses of each statement, at a boundary of each clause -/

def stopBytes : List Byte := [0xF0, 0x7F, 0x7F, 0x06, 0x01, 0xF7]

def busyStop : State := performing ⟨0x10, [.bytes stopBytes, .num stopBytes.length]⟩

theorem witness_HdrParseReadsFirstByteOnly : ([0x0D, 0xF0] : List Byte).length ≤ Config.bufCap := by decide

theorem witness_MidiParseLengthErrorsInOrder :
    ((0 : Nat) = 0 ∨ ([0xF1] : List Byte) = []) ∧ ((5 : Nat) = 0 ∨ ([] : List Byte) = []) ∧
    ((3 : Nat) ≠ 0 ∧ ([1, 2] : List Byte) ≠ [] ∧ ([1, 2] : List Byte).length < 3) := by decide

theorem witness_EveryByteSequenceDecodes :
    (1 ≤ 1 ∧ 1 ≤ ([0] : List Byte).length) ∧ ¬(1 ≤ 0 ∧ 0 ≤ ([0] : List Byte).length) ∧
    ¬(1 ≤ 2 ∧ 2 ≤ ([0] : List Byte).length) := by decide

theorem witness_QuarterFrameDecode : 2 ≤ 2 ∧ 2 ≤ ([] : List Byte).length + 2 := by decide

theorem witness_NonSysexIsOtherOfRequestedBytes :
    (0xF7 : Byte) ≠ 0xF0 ∧ (0xF7 : Byte) ≠ 0xF1 ∧ 1 ≤ 1 ∧ 1 ≤ ([] : List Byte).length + 1 := by decide

theorem witness_FailedSysexCheckIsOtherOfRequestedBytes : 1 ≤ 1 ∧ 1 ≤ ([0xF7] : List Byte).length + 1 ∧
    ¬∃ body post : List Byte, 0xF7 ∉ body ∧ [0xF7] = 0x7F :: 0x7F :: (body ++ 0xF7 :: post) := by
  simp

theorem witness_LocateDecode : (0xF7 : Byte) ∉ [1, 2, 3, 4, 0x32] ∧ 1 ≤ 13 ∧
    13 ≤ ([0xF0, 0x7F, 0x7F, 0x06, 0x44, 0x06, 0x01, 1, 2, 3, 4, 0x32] ++ 0xF7 :: [] : List Byte).length := by decide

theorem witness_FullFrameDecode : (0xF7 : Byte) ∉ [1, 2, 3, 4] ∧ 1 ≤ 10 ∧
    10 ≤ ([0xF0, 0x7F, 0x7F, 0x01, 0x01, 1, 2, 3, 4] ++ 0xF7 :: [] : List Byte).length := by decide

theorem witness_StopAndPlayDecode : (0xF7 : Byte) ∉ ([] : List Byte) ∧ 1 ≤ 6 ∧
    6 ≤ ([0xF0, 0x7F, 0x7F, 0x06, 0x01] ++ 0xF7 :: [] : List Byte).length := by decide

theorem witness_UnrecognisedSysexIsOtherOfSlice : (0xF7 : Byte) ∉ ([0x06, 0x44, 0x06, 0x01, 1, 2, 3, 4] : List Byte) ∧
    1 ≤ 1 ∧ 1 ≤ ([0xF0, 0x7F, 0x7F, 0x06, 0x44, 0x06, 0x01, 1, 2, 3, 4] ++ 0xF7 :: [] : List Byte).length ∧
    ¬(([0x06, 0x44, 0x06, 0x01] : List Byte) <+: [0x06, 0x44, 0x06, 0x01, 1, 2, 3, 4] ∧
      9 ≤ ([0x06, 0x44, 0x06, 0x01, 1, 2, 3, 4] : List Byte).length) ∧
    ¬(([0x01, 0x01] : List Byte) <+: [0x06, 0x44, 0x06, 0x01, 1, 2, 3, 4] ∧
      6 ≤ ([0x06, 0x44, 0x06, 0x01, 1, 2, 3, 4] : List Byte).length) ∧
    ¬([0x06, 0x01] : List Byte) <+: [0x06, 0x44, 0x06, 0x01, 1, 2, 3, 4] ∧
    ¬([0x06, 0x02] : List Byte) <+: [0x06, 0x44, 0x06, 0x01, 1, 2, 3, 4] := by decide

theorem witness_SubframeIsAlwaysZero : ∃ t : State,
    exec (.midiParse [0xF0, 0x7F, 0x7F, 0x06, 0x44, 0x06, 0x01, 1, 2, 3, 4, 0x32, 0xF7] 13) State.reset = .next t ∧
    t.rsp = some (.ok (.event (.mmcLocate 1 2 3 4 0))) := ⟨_, rfl, by decide⟩

theorem witness_SliceEqualsRequestedBytesExactly : 1 ≤ 1 ∧ 1 ≤ ([0] : List Byte).length := by decide

theorem witness_BuildThenParseRoundTrip : isOther (.mtcFull 0xF7 0 0 0) = false ∧ isOther (.mmcLocate 1 2 3 4 50) = false ∧
    isOther (.mtcQuarter 0x12 0x1F) = false ∧ isOther .mmcStop = false := by decide

theorem witness_ParseThenBuild :
    exec (.midiParse stopBytes 6) State.reset = .next (answered State.reset (.ok (.event .mmcStop))) := rfl

/-- R150's constant divisors, and zero beside a value that is not. -/
theorem witness_Binary64RoundsToNearestEven : 0 < 1000000 ∧ f64Value (f64OfNat 1000000) ≠ 0 ∧ f64Value (f64OfNat 0) = 0 := by
  have s : f64OfNat 1000000 = ⟨8589934592000000, -33⟩ := by decide
  refine ⟨by decide, ?_, ?_⟩
  · rw [s]; norm_num [f64Value]
  · simp [f64Value, f64OfNat, f64OfRatio]

theorem witness_UsToSmpteIntegerForm : (300239975158033 : Microseconds).toNat ≤ 300239975158033 := by decide

theorem witness_TiesRoundUpWithinBound : (50000 : Microseconds).toNat ≤ 300239975158033 ∧
    (50000 : Microseconds).toNat = 50000 + 100000 * 0 := by decide

theorem witness_MicrosecondRoundTripWithinOneFrame : (86399983333 : Microseconds).toNat ≤ 86399983333 ∧
    86399983334 ≤ (86399983334 : Microseconds).toNat := by decide

theorem witness_TimecodeRoundTrips : InRange ⟨23, 59, 59, 29⟩ ∧ ¬InRange ⟨24, 59, 59, 29⟩ := by decide

/-- Index 0 and index 7 fail; below index 7 all is as it should be. -/
theorem witness_QfToSmpteFirstFailingCheck :
    (quarterFrameList (base ⟨2, 0xD⟩ ⟨8, 6⟩))[7]? = some ⟨8, 6⟩ ∧ (8 : Byte).toNat ≠ 7 ∧
    (∀ p ∈ ((quarterFrameList (base ⟨2, 0xD⟩ ⟨8, 6⟩)).take 7).zipIdx, p.1.frameType.toNat = p.2 ∧ p.1.value.toNat ≤ 15) ∧
    (quarterFrameList ⟨⟨0, 16⟩, ⟨1, 0⟩, ⟨2, 0⟩, ⟨3, 0⟩, ⟨4, 0⟩, ⟨5, 0⟩, ⟨6, 0⟩, ⟨7, 6⟩⟩)[0]? = some ⟨0, 16⟩ ∧
    (0 : Byte).toNat = 0 ∧ 15 < (16 : Byte).toNat := by decide

theorem witness_QfToSmpteReassembles : ∀ (i : Nat) (a : MtcQuarterFrame),
    (quarterFrameList (base ⟨2, 0xD⟩ ⟨7, 0xE⟩))[i]? = some a → a.frameType.toNat = i ∧ a.value.toNat ≤ 15 := by
  intro i a h
  match i with
  | 0 | 1 | 2 | 3 | 4 | 5 | 6 | 7 => simp [quarterFrameList, base] at h; subst h; decide
  | n + 8 => simp [quarterFrameList, base] at h

/-- Of the encoding clauses of the building and the flows. -/
theorem witness_OperandsFit : (MidiEvent.other [0xF8]).fits = true ∧ MidiEvent.mmcStop.fits = true ∧
    ([0x02, 0xF1, 0x05] : List Byte).length ≤ Config.bufCap := by decide

theorem witness_ReservedErrorsAreNeverProduced :
    exec (.hdrParse []) { busyStop with rsp := none } = .next (answered busyStop (.err .insufficientHeaderData)) := rfl

theorem witness_MasterHeaderCountsTheMessage :
    exec (.masterFlow .mmcStop) State.reset = .next (answered State.reset (.ok (.bytes (0x06 :: stopBytes)))) := rfl

theorem witness_SlaveFlowParsesAfterTheHeader : ([0x02, 0xF1] : List Byte).length < 3 ∧ 2 ≤ ([0xF1, 0x05] : List Byte).length ∧
    ((0xF0 : Byte).toNat % 16 = 0 ∨ ([0xF1, 0x05] : List Byte).length < (0xF0 : Byte).toNat % 16) ∧
    ((0x03 : Byte).toNat % 16 = 0 ∨ ([0xF1, 0x05] : List Byte).length < (0x03 : Byte).toNat % 16) ∧
    ¬((0x02 : Byte).toNat % 16 = 0 ∨ ([0xF1, 0x05] : List Byte).length < (0x02 : Byte).toNat % 16) := by decide

theorem witness_MasterThenSlaveRoundTrip : isOther (.mmcLocate 1 2 0xF7 4 0) = false := by decide

theorem witness_ReservedOpcodeIsRefused :
    (0x00 : Byte) ∉ ([0x01, 0x02, 0x03, 0x10, 0x11, 0x20, 0x21, 0x22, 0x23, 0x30, 0x31] : List Byte) ∧
    (0xFF : Byte) ∉ ([0x01, 0x02, 0x03, 0x10, 0x11, 0x20, 0x21, 0x22, 0x23, 0x30, 0x31] : List Byte) := by decide

theorem witness_AdapterMasterByDescriptor : State.reset.busy = false ∧
    ((4 : Byte), (5 : Byte)) ∉ ([(0, 2), (1, 4), (2, 0), (3, 0), (4, 4)] : List (Byte × Byte)) ∧
    ((5 : Byte), (0 : Byte)) ∉ ([(0, 2), (1, 4), (2, 0), (3, 0), (4, 4)] : List (Byte × Byte)) := by decide

/-- An accepted descriptor of each kind, with the code and the bytes written: the capacity exact, and one short. -/
theorem witness_AdapterMasterByDescriptor_accepted :
    retOf (exec (.adapterMaster ⟨0, ⟨1, 2, 0, 0, 0, 0, 0, 0⟩, 2⟩ 3) State.reset) = some ⟨.success, 3⟩ ∧
    retOf (exec (.adapterMaster ⟨1, ⟨1, 2, 3, 4, 0, 0, 0, 0⟩, 4⟩ 11) State.reset) = some ⟨.success, 11⟩ ∧
    retOf (exec (.adapterMaster ⟨2, ⟨0, 0, 0, 0, 0, 0, 0, 0⟩, 0⟩ 7) State.reset) = some ⟨.success, 7⟩ ∧
    retOf (exec (.adapterMaster ⟨3, ⟨0, 0, 0, 0, 0, 0, 0, 0⟩, 0⟩ 6) State.reset) = some ⟨.bufferTooSmall, 0⟩ ∧
    retOf (exec (.adapterMaster ⟨4, ⟨1, 2, 3, 4, 0, 0, 0, 0⟩, 4⟩ 14) State.reset) = some ⟨.success, 14⟩ := by decide

theorem witness_AdapterSlaveBySlaveFlow : State.reset.busy = false ∧ ([] : List Byte).length ≤ Config.bufCap ∧
    ([] : List Byte).length + 3 ≤ Config.bufCap ∧ 2 ≤ (0xF2 : Byte).toNat % 16 ∧
    (0xF2 : Byte).toNat % 16 ≤ ([] : List Byte).length + 2 := by decide

theorem witness_AdapterAtTheInterface : State.reset.busy = false ∧ Config.bufCap < tooLong.length ∧ busyStop.busy = true :=
  ⟨rfl, by simp [tooLong_length], rfl⟩

theorem witness_AdapterCodesAndFrame : State.reset.busy = false ∧
    (∃ t, exec (.adapterMaster ⟨3, ⟨0, 0, 0, 0, 0, 0, 0, 0⟩, 0⟩ 16) State.reset = .next t) ∧
    ∃ t, exec (.adapterSlave [0x02, 0xF1, 0x05]) State.reset = .next t := ⟨rfl, ⟨_, rfl⟩, ⟨_, rfl⟩⟩

theorem witness_DecodeOfEncode : (Instr.slaveFlow [0x02, 0xF1, 0x05]).wellFormed = true ∧
    (Instr.reservedOpcode 0x04).wellFormed = true ∧ (Instr.msgMmcLocate 1 2 3 4 50).wellFormed = true ∧
    (Instr.msgOther [0xF0, 0x7E, 0x7F, 0x06, 0x01, 0xF7, 0xAA]).wellFormed = true ∧
    (Instr.msgOther [0xF0, 0x7F, 0x7F, 0xF7]).wellFormed = true := by decide

/-- Every encoded form. -/
theorem witness_DecodedIsWellFormed : decode (.request ⟨0xFF, [.num 7]⟩) = .ok (.reservedOpcode 0xFF) ∧
    decode (.wire [0xF0, 0x7F, 0x7F, 0xF7]) = .ok (.msgOther [0xF0, 0x7F, 0x7F, 0xF7]) ∧
    decode (.header 0xFF) = .ok (.payloadHeader 15 15) ∧ decode (.payload [0x0D]) = .ok (.netsyncPayload ⟨0, 13⟩ []) ∧
    decode (.call (.slave [])) = .ok (.adapterSlave []) := by decide

/-- An `Other` event of exactly `BUF_CAP` bytes. -/
theorem witness_DecodedIsWellFormed_longest : ∃ bytes : List Byte, bytes.length = Config.bufCap ∧
    decode (.request ⟨0x11, [operandOfEvent (.other bytes)]⟩) = .ok (.midiBuild (.other bytes)) :=
  ⟨List.replicate Config.bufCap 0, List.length_replicate, decode_buildOther List.length_replicate.le⟩

theorem witness_AcceptedRequestIsItsEncoding : (0x22 : Byte) ∈ listedOpcodes ∧
    decode (.request ⟨0x22, [.timecode [255, 255, 255, 255]]⟩) = .ok (.smpteToQf ⟨255, 255, 255, 255⟩) := by decide

theorem witness_StepRunsTheDecodedInstruction :
    (busyStop.busy = true ∧ busyStop.req = some ⟨0x10, [.bytes stopBytes, .num stopBytes.length]⟩ ∧ noResetNext busyStop ∧
      decode (.request ⟨0x10, [.bytes stopBytes, .num stopBytes.length]⟩) = .ok (.midiParse stopBytes 6)) ∧
    ({ State.reset with host := [.call (.slave [])] } : State).busy = false ∧
    decode (.call (.slave [])) = .ok (.adapterSlave []) :=
  ⟨⟨rfl, rfl, noReset_nil rfl, by decide⟩, rfl, by decide⟩

theorem witness_StepRunsTheWireInstruction : busyStop.busy = true ∧ noResetNext busyStop ∧
    busyStop.req = some ⟨0x10, [.bytes stopBytes, .num stopBytes.length]⟩ ∧ stopBytes.length ≤ Config.bufCap ∧
    decode (.wire stopBytes) = .ok .msgMmcStop ∧
    (performing ⟨0x03, [.bytes [0xA5]]⟩).req = some ⟨0x03, [.bytes [0xA5]]⟩ ∧
    decode (.header 0xA5) = .ok (.payloadHeader 10 5) ∧
    (performing ⟨0x31, [.bytes [0x02, 0xF1, 0x05]]⟩).req = some ⟨0x31, [.bytes [0x02, 0xF1, 0x05]]⟩ ∧
    ([0x02, 0xF1, 0x05] : List Byte).length ≤ Config.bufCap ∧
    decode (.payload [0x02, 0xF1, 0x05]) = .ok (.netsyncPayload ⟨0, 2⟩ [0xF1, 0x05]) :=
  ⟨rfl, noReset_nil rfl, rfl, by decide, by decide, rfl, by decide, rfl, by decide, by decide⟩

/-- The over-long clauses, one byte above the bound. -/
theorem witness_StepRunsTheWireInstruction_long : Config.bufCap < tooLong.length ∧
    (performing ⟨0x10, [.bytes tooLong, .num tooLong.length]⟩).req = some ⟨0x10, [.bytes tooLong, .num tooLong.length]⟩ ∧
    (performing ⟨0x31, [.bytes tooLong]⟩).req = some ⟨0x31, [.bytes tooLong]⟩ :=
  ⟨by simp [tooLong_length], rfl, rfl⟩

/-- A reserved opcode, a wrong shape that no instruction's encoding has, and an accepted request. -/
theorem witness_RefusedExactlyAtTheInterface : (performing ⟨0x32, []⟩).busy = true ∧
    (performing ⟨0x32, []⟩).req = some ⟨0x32, []⟩ ∧ noResetNext (performing ⟨0x32, []⟩) ∧ (0x32 : Byte) ∉ listedOpcodes ∧
    (∀ i : Instr, i.wellFormed = true → encode i ≠ .request ⟨0x23, []⟩) ∧ (0x10 : Byte) ∈ listedOpcodes := by
  refine ⟨rfl, rfl, noReset_nil rfl, by decide, ?_, by decide⟩
  intro i w h
  cases i <;> simp [encode] at h
  subst h
  simp [Instr.wellFormed, listedOpcodes] at w

theorem witness_ByteSequencesStayWithinBufCap : Config.bufCap < tooLong.length ∧
    (performing ⟨0x03, [.bytes tooLong]⟩).req = some ⟨0x03, [.bytes tooLong]⟩ ∧
    ∃ t, step (performing ⟨0x02, [.header 0 2]⟩) = .next t ∧ t.rsp = some (.ok (.bytes [0x02])) :=
  ⟨by simp [tooLong_length], rfl, _, rfl, by decide⟩

theorem witness_ByteSequencesStayWithinBufCap_len : ∃ len : Nat, Config.bufCap < len ∧
    (performing ⟨0x10, [.bytes [0xF1], .num len]⟩).busy = true ∧
    noResetNext (performing ⟨0x10, [.bytes [0xF1], .num len]⟩) :=
  ⟨Config.bufCap + 1, Nat.lt_succ_self _, rfl, noReset_nil rfl⟩

theorem witness_HostActionsWhileIdle :
    ({ State.reset with host := [.issue ⟨0x04, []⟩] } : State).host = .issue ⟨0x04, []⟩ :: [] ∧
    ({ State.reset with host := [.take], rsp := some (.err .refused) } : State).rsp = some (.err .refused) ∧
    ({ State.reset with host := [.take] } : State).rsp = none ∧ State.reset.host = [] := by decide

theorem witness_RequestWhileBusyIsHeld : ∃ s : State, s.busy = true ∧ s.req = some ⟨0x04, []⟩ ∧
    s.host = .issue ⟨0x01, [.num 0, .num 13]⟩ :: [] :=
  ⟨{ performing ⟨0x04, []⟩ with host := [.issue ⟨0x01, [.num 0, .num 13]⟩] }, rfl, rfl, rfl⟩

/-- X-8. -/
theorem witness_ResetAbandonsTheRequest : ∃ s : State, s.busy = true ∧ s.req = some ⟨0x20, [.num 50000]⟩ ∧
    noResetNext { s with host := [.take] } ∧ s.host = .reset :: .issue ⟨0x20, [.num 50000]⟩ :: [.take] :=
  ⟨{ performing ⟨0x20, [.num 50000]⟩ with host := [.reset, .issue ⟨0x20, [.num 50000]⟩, .take] }, rfl, rfl,
    by intro rest; simp, rfl⟩

theorem witness_EqualRequestsGetEqualResponses : busyStop.busy = true ∧ noResetNext busyStop ∧
    busyStop.req = some ⟨0x10, [.bytes stopBytes, .num stopBytes.length]⟩ := ⟨rfl, noReset_nil rfl, rfl⟩

theorem witness_ResponsesComeBackInIssueOrder : ∃ s : State, s.busy = false ∧
    s.host = issueAndTake [⟨0x04, []⟩, ⟨0x20, [.num 50000]⟩] ++ [.reset] :=
  ⟨{ State.reset with host := issueAndTake [⟨0x04, []⟩, ⟨0x20, [.num 50000]⟩] ++ [.reset] }, rfl, rfl⟩

theorem witness_OperationFrame : (∀ d cap, Instr.msgMmcStop ≠ .adapterMaster d cap) ∧ (∀ p, Instr.msgMmcStop ≠ .adapterSlave p) ∧
    ∃ t, exec .msgMmcStop State.reset = .next t := ⟨by simp, by simp, _, rfl⟩

theorem witness_ResetState : ∃ s t : State, s.host = .reset :: [] ∧ step s = .next t :=
  ⟨{ busyStop with host := [.reset] }, _, rfl, rfl⟩

/-- A busy state has the invariant too. -/
theorem witness_Inv : Inv busyStop ∧ ∃ t, step busyStop = .next t where
  left :=
    { busy_iff := rfl
      busy_rsp := fun _ => rfl
      rsp_legal := by simp [busyStop, performing]; simp [State.reset]
      taken_legal := by simp [busyStop, performing]; simp [State.reset]
      ret_legal := by simp [busyStop, performing]; simp [State.reset] }
  right := ⟨_, rfl⟩

end Sys2Proof.Tests
end

section
/-! The host's own steps, one equation each (R8, R230), and what reset leaves (R34, R231). -/

namespace Sys2Proof.Machine

/-- R230: a reset the host asserts precedes anything else, in a busy state too. -/
theorem step_of_reset {s : State} {rest : List HostAction} (h : s.host = .reset :: rest) :
    step s = .next (s.withHost rest).resetBlock := by
  simp [step, nextMove, h]

theorem step_of_issue_idle {s : State} {r : Request} {rest : List HostAction} (b : s.busy = false)
    (h : s.host = .issue r :: rest) : step s = .next ((s.withHost rest).accept r) := by
  simp [step, nextMove, h, b]

theorem step_of_take_idle {s : State} {rest : List HostAction} (b : s.busy = false)
    (h : s.host = .take :: rest) : step s = .next (s.withHost rest).takeResponse := by
  simp [step, nextMove, h, b]

/-- Taking from an empty RSP gets no response, which is not a value (R34). -/
theorem State.takeResponse_eq_self {s : State} (h : s.rsp = none) : s.takeResponse = s := by
  simp [State.takeResponse, h]

/-- Settles O57: the reset values are read off `State.reset`, and each host action by its own step equation. -/
theorem resetState : Obligations.ResetState := by
  refine ⟨rfl, rfl, rfl, ?take, ?issue, ?reset⟩
  case take =>
    rw [step_of_take_idle rfl rfl, State.takeResponse_eq_self rfl]
    rfl
  case issue => exact fun r => step_of_issue_idle rfl rfl
  case reset =>
    intro s t rest h hs
    obtain rfl : (s.withHost rest).resetBlock = t := by simpa [step_of_reset h] using hs
    exact ⟨State.resetBlock_busy _, State.resetBlock_req _, State.resetBlock_rsp _⟩

end Sys2Proof.Machine
end

section
/-! Reserved opcodes, 30_encoding.md R72: how the decoder reads them and what the block answers. -/

namespace Sys2Proof.Machine

/-- R72: the shape of the operands is looked at for a listed opcode only. -/
theorem readEncoded_request_of_not_listed {op : Byte} (args : List Operand) (h : op ∉ listedOpcodes) :
    readEncoded (.request ⟨op, args⟩) = .ok (.reservedOpcode op) := by
  simp [readEncoded, h]

/-- R66 bounds the operands of instructions, and a reserved opcode has none. -/
theorem decode_request_of_not_listed {op : Byte} (args : List Operand) (h : op ∉ listedOpcodes) :
    decode (.request ⟨op, args⟩) = .ok (.reservedOpcode op) :=
  decode_eq_ok_iff.mpr ⟨readEncoded_request_of_not_listed args h, rfl, rfl⟩

theorem exec_reservedOpcode (op : Byte) (s : State) :
    exec (.reservedOpcode op) s = .next (answered s (.err .refused)) :=
  congrArg Host.Outcome.next (State.refuse_eq_answered s)

/-- Settles O35: the decoder reads an unlisted opcode before its operands, and its arm of `exec` only refuses. -/
theorem reservedOpcodeIsRefused : Obligations.ReservedOpcodeIsRefused := by
  intro op args s h
  exact ⟨decode_request_of_not_listed args h, exec_reservedOpcode op s, rfl⟩

end Sys2Proof.Machine
end

section
/-! The payload header, 40_header.md R100 to R102: how its three requests decode, and what each operation answers. -/

namespace Sys2Proof.Machine

/-- R70, R73: a listed opcode with operands of its shape, within the bound of R66, is its row. -/
theorem decode_request_of_operands {op : Byte} {args : List Operand} {i : Instr} (listed : op ∈ listedOpcodes)
    (shape : operandsOf? op args = some i) (fits : i.fits = true) : decode (.request ⟨op, args⟩) = .ok i :=
  decode_eq_ok_iff.mpr ⟨by simp [readEncoded, listed, shape], rfl, fits⟩

theorem decode_hdrNew (flags len : Byte) :
    decode (.request ⟨0x01, [.num flags.toNat, .num len.toNat]⟩) = .ok (.hdrNew flags len) :=
  decode_request_of_operands (by decide) (by simp [operandsOf?]) rfl

theorem decode_hdrSerialize (h : PayloadHeader) :
    decode (.request ⟨0x02, [.header h.flags.toNat h.len.toNat]⟩) = .ok (.hdrSerialize h) :=
  decode_request_of_operands (by decide) (by simp [operandsOf?]) rfl

theorem decode_hdrParse {buf : List Byte} (h : buf.length ≤ Config.bufCap) :
    decode (.request ⟨0x03, [.bytes buf]⟩) = .ok (.hdrParse buf) :=
  decode_request_of_operands (by decide) rfl (decide_eq_true h)

/-- R100: the mask `& 0x0F` is the remainder modulo 16. -/
@[simp] theorem maskNibble_toNat (b : Byte) : (maskNibble b).toNat = b.toNat % 16 := by
  have mask : b.toNat &&& 15 = b.toNat % 16 := Nat.and_two_pow_sub_one_eq_mod b.toNat 4
  simp [maskNibble, mask]

@[simp] theorem byteOfHeader_toNat (h : PayloadHeader) :
    (byteOfHeader h).toNat = 16 * h.flags.toNat + h.len.toNat :=
  byteOfNibbles_toNat h.flags h.len

theorem exec_hdrNew (flags len : Byte) (s : State) :
    exec (.hdrNew flags len) s = .next (answered s (.ok (.header ⟨maskNibble flags, maskNibble len⟩))) :=
  congrArg Host.Outcome.next (State.complete_eq_answered s _)

theorem exec_hdrSerialize (h : PayloadHeader) (s : State) :
    exec (.hdrSerialize h) s = .next (answered s (.ok (.bytes [byteOfHeader h]))) :=
  congrArg Host.Outcome.next (State.complete_eq_answered s _)

theorem exec_hdrParse_nil (s : State) :
    exec (.hdrParse []) s = .next (answered s (.err .insufficientHeaderData)) :=
  congrArg Host.Outcome.next (State.complete_eq_answered s _)

theorem exec_hdrParse_cons (b : Byte) (rest : List Byte) (s : State) :
    exec (.hdrParse (b :: rest)) s = .next (answered s (.ok (.header (headerOfByte b)))) :=
  congrArg Host.Outcome.next (State.complete_eq_answered s _)

/-- Settles O1: the answered header is the two masked operands, and a mask to 4 bits is a remainder modulo 16. -/
theorem hdrNewMasksBothFields : Obligations.HdrNewMasksBothFields := by
  intro flags len s
  exact ⟨decode_hdrNew flags len, ⟨maskNibble flags, maskNibble len⟩, maskNibble_toNat flags, maskNibble_toNat len,
    exec_hdrNew flags len s⟩

/-- Settles O2: the byte is the two nibbles side by side, flags on top. -/
theorem hdrSerializeGivesOneByte : Obligations.HdrSerializeGivesOneByte := by
  intro h s
  exact ⟨decode_hdrSerialize h, byteOfHeader h, byteOfHeader_toNat h, exec_hdrSerialize h s⟩

/-- Settles O3: the two cases of the buffer; a non-empty one gives the nibbles of its first byte. -/
theorem hdrParseReadsFirstByteOnly : Obligations.HdrParseReadsFirstByteOnly := by
  refine ⟨fun buf => decode_hdrParse, exec_hdrParse_nil, ?cons⟩
  case cons =>
    intro b rest s
    exact ⟨headerOfByte b, highNibble_toNat b, lowNibble_toNat b, exec_hdrParse_cons b rest s⟩

end Sys2Proof.Machine
end

section
/-! MIDI_PARSE, 41_midi_parse.md: what the operation answers (with MIDI_BUILD beside it), what the decoder reads by the
first byte (R111 to R116), and what a checked SysEx decodes to (R120 to R125). -/

namespace Sys2Proof.Machine

/-! ## The operation -/

theorem exec_midiParse (buf : List Byte) (len : Nat) (s : State) :
    exec (.midiParse buf len) s = .next (answered s (responseOf ((midiParse buf len).map .event))) :=
  congrArg Host.Outcome.next (State.complete_eq_answered s _)

theorem exec_midiBuild (e : MidiEvent) (s : State) :
    exec (.midiBuild e) s = .next (answered s (.ok (.bytes (midiBuild e)))) :=
  congrArg Host.Outcome.next (State.complete_eq_answered s _)

theorem exec_midiParse_of_error {buf : List Byte} {len : Nat} {k : ErrorKind} (s : State)
    (h : midiParse buf len = .error k) : exec (.midiParse buf len) s = .next (answered s (.err k)) := by
  rw [exec_midiParse, h]
  rfl

theorem midiParse_empty {buf : List Byte} {len : Nat} (h : len = 0 ∨ buf = []) :
    midiParse buf len = .error .emptyBuffer :=
  dif_pos (h.imp_right fun e => by rw [e, List.length_nil])

theorem midiParse_too_small {buf : List Byte} {len : Nat} (hl : len ≠ 0) (hb : buf ≠ []) (h : buf.length < len) :
    midiParse buf len = .error (.bufferTooSmall len buf.length) := by
  have nonempty : ¬(len = 0 ∨ buf.length = 0) := by simp [hl, hb]
  rw [midiParse, dif_neg nonempty, dif_pos h]

/-- R110: past step 1 there is no error. -/
theorem midiParse_of_le {buf : List Byte} {len : Nat} (h : 1 ≤ len ∧ len ≤ buf.length) :
    midiParse buf len = .ok (eventOfMessage (decodeMessage buf len h)) := by
  have nonempty : ¬(len = 0 ∨ buf.length = 0) := by omega
  rw [midiParse, dif_neg nonempty, dif_neg (by omega)]

/-- What MIDI_PARSE answers, by what the decoder reads. -/
theorem exec_midiParse_of_decodeMessage {buf : List Byte} {len : Nat} {m : WireMessage} (s : State)
    {h : 1 ≤ len ∧ len ≤ buf.length} (d : decodeMessage buf len h = m) :
    exec (.midiParse buf len) s = .next (answered s (.ok (.event (eventOfMessage m)))) := by
  rw [exec_midiParse, midiParse_of_le h, d]
  rfl

/-! ## The first byte (R111 to R113) -/

@[simp] theorem widenNibble_toNat (n : Nibble) : (widenNibble n).toNat = n.toNat :=
  BitVec.toNat_setWidth_of_le (by decide)

theorem decodeMessage_quarter (data : Byte) (rest : List Byte) {len : Nat} (two : 2 ≤ len)
    (h : 1 ≤ len ∧ len ≤ (0xF1 :: data :: rest).length) :
    decodeMessage (0xF1 :: data :: rest) len h = .mtcQuarter (highNibble data) (lowNibble data) := by
  have full : ¬len < 2 := by omega
  simp [decodeMessage, Config.mtcQf, full]

theorem decodeMessage_quarter_truncated (rest : List Byte) (h : 1 ≤ 1 ∧ 1 ≤ (0xF1 :: rest).length) :
    decodeMessage (0xF1 :: rest) 1 h = .other [0xF1] := by
  simp [decodeMessage, Config.mtcQf, requestedBytes]

theorem decodeMessage_nonSysex {b : Byte} (rest : List Byte) {len : Nat} (hq : b ≠ 0xF1) (hs : b ≠ 0xF0)
    (h : 1 ≤ len ∧ len ≤ (b :: rest).length) :
    decodeMessage (b :: rest) len h = .other ((b :: rest).take len) :=
  (if_neg hq).trans (if_pos hs)

/-- R114 to R116: a SysEx is read from its slice if the check passes, and is `Other` of the requested bytes if not. -/
theorem decodeMessage_sysex (rest : List Byte) {len : Nat} (h : 1 ≤ len ∧ len ≤ (0xF0 :: rest).length) :
    decodeMessage (0xF0 :: rest) len h =
      if SysexOk (commandSlice (0xF0 :: rest) len) then decodeChecked (commandSlice (0xF0 :: rest) len)
      else .other ((0xF0 :: rest).take len) := by
  simp [decodeMessage, Config.mtcQf, Config.sysexStart, requestedBytes]

/-! ## The check (R114, R115) -/

/-- R114: the slice of a framed SysEx ends with its first F7. -/
theorem commandSlice_framed {body : List Byte} (post : List Byte) (len : Nat) (h : 0xF7 ∉ body) :
    commandSlice (0xF0 :: 0x7F :: 0x7F :: (body ++ 0xF7 :: post)) len = 0xF0 :: 0x7F :: 0x7F :: (body ++ [0xF7]) :=
  commandSlice_terminated (pre := 0xF0 :: 0x7F :: 0x7F :: body) post len (by simpa [Config.sysexEnd] using h)

/-- R115: an unterminated slice fails the check. -/
theorem not_sysexOk_of_not_mem {s : List Byte} (h : 0xF7 ∉ s) : ¬SysexOk s := by
  rintro ⟨-, -, -, last⟩
  exact h (List.mem_of_getLast? last)

/-- R115: a slice up to its first F7 that passes the check has both 7F bytes before that F7. -/
theorem sysexOk_terminated {first : Byte} {pre : List Byte} (h : SysexOk (first :: pre ++ [0xF7])) :
    ∃ body, pre = 0x7F :: 0x7F :: body := by
  obtain ⟨-, mfr, device, -⟩ := h
  match pre with
  | [] => simp [Config.mfrId] at mfr
  | [_] => simp [Config.deviceId] at device
  | a :: b :: body =>
    obtain rfl : a = 0x7F := Option.some.inj mfr
    obtain rfl : b = 0x7F := Option.some.inj device
    exact ⟨body, rfl⟩

/-- R114, R115: the check passes exactly on F0 7F 7F, bytes without F7, F7, and anything after it. -/
theorem sysexOk_commandSlice_iff {rest : List Byte} {len : Nat} :
    SysexOk (commandSlice (0xF0 :: rest) len) ↔
      ∃ body post : List Byte, 0xF7 ∉ body ∧ rest = 0x7F :: 0x7F :: (body ++ 0xF7 :: post) := by
  constructor
  case mp =>
    intro ok
    rcases commandSlice_cases (0xF0 :: rest) len with ⟨pre, post, hbuf, hpre, hs⟩ | ⟨hn, hs⟩
    · rw [hs] at ok
      match pre with
      | [] => simp [Config.sysexEnd] at hbuf
      | first :: pre =>
        obtain ⟨body, rfl⟩ := sysexOk_terminated ok
        exact ⟨body, post, fun hm => hpre (.tail _ (.tail _ (.tail _ hm))), (List.cons.inj hbuf).2⟩
    · rw [hs] at ok
      exact absurd ok (not_sysexOk_of_not_mem fun hm => hn (List.mem_of_mem_take hm))
  case mpr =>
    rintro ⟨body, post, hb, rfl⟩
    rw [commandSlice_framed post len hb]
    have last : (0xF0 :: 0x7F :: 0x7F :: (body ++ [0xF7]) : List Byte).getLast? = some 0xF7 :=
      List.getLast?_concat (l := 0xF0 :: 0x7F :: 0x7F :: body)
    exact ⟨by simp, rfl, rfl, last⟩

/-! ## A checked SysEx (R120 to R125) -/

theorem decodeChecked_locate (b0 b1 b2 h m sec f u : Byte) (tail : List Byte) :
    decodeChecked (b0 :: b1 :: b2 :: 0x06 :: 0x44 :: 0x06 :: 0x01 :: h :: m :: sec :: f :: u :: (tail ++ [0xF7])) =
      .mmcLocate h m sec f u :=
  dif_pos ⟨by simp [Config.lenLocate], rfl, rfl, rfl, rfl⟩

theorem decodeChecked_full (b0 b1 b2 h m sec f : Byte) (tail : List Byte) :
    decodeChecked (b0 :: b1 :: b2 :: 0x01 :: 0x01 :: h :: m :: sec :: f :: (tail ++ [0xF7])) = .mtcFull h m sec f := by
  rw [decodeChecked, dif_neg (by simp [IsLocate, Config.subMmc]), dif_pos ⟨by simp [Config.lenFull], rfl, rfl⟩]
  rfl

theorem decodeChecked_stop (b0 b1 b2 : Byte) (tail : List Byte) :
    decodeChecked (b0 :: b1 :: b2 :: 0x06 :: 0x01 :: (tail ++ [0xF7])) = .mmcStop := by
  rw [decodeChecked, dif_neg (by simp [IsLocate, Config.mmcLocate]), dif_neg (by simp [IsFull, Config.subMtc]),
    if_pos ⟨by simp [Config.lenStop], rfl, rfl⟩]

theorem decodeChecked_play (b0 b1 b2 : Byte) (tail : List Byte) :
    decodeChecked (b0 :: b1 :: b2 :: 0x06 :: 0x02 :: (tail ++ [0xF7])) = .mmcPlay := by
  rw [decodeChecked, dif_neg (by simp [IsLocate, Config.mmcLocate]), dif_neg (by simp [IsFull, Config.subMtc]),
    if_neg (by simp [IsStop, Config.mmcStop]), if_pos ⟨by simp [Config.lenPlay], rfl, rfl⟩]

theorem decodeChecked_other {s : List Byte} (hl : ¬IsLocate s) (hf : ¬IsFull s) (hs : ¬IsStop s) (hp : ¬IsPlay s) :
    decodeChecked s = .other s := by
  rw [decodeChecked, dif_neg hl, dif_neg hf, if_neg hs, if_neg hp]

/-! R110 tests the length of a slice before any byte of it, so a byte that a predicate reads stands before the closing F7,
and the predicate says how what stands between the frame bytes begins and how long it is. -/

theorem prefix_of_getElem? {p body : List Byte} {last : Byte} (fits : p.length ≤ body.length)
    (h : ∀ i (hi : i < p.length), (body ++ [last])[i]? = some p[i]) : p <+: body :=
  List.prefix_of_prefix_length_le (List.prefix_iff_getElem?.mpr h) (List.prefix_append body [last]) fits

theorem pair_prefix_of_getElem? {a b last : Byte} {body : List Byte} (two : 2 ≤ body.length)
    (ha : (body ++ [last])[0]? = some a) (hb : (body ++ [last])[1]? = some b) : [a, b] <+: body :=
  prefix_of_getElem? two fun
    | 0, _ => ha
    | 1, _ => hb

theorem prefix_of_isLocate {b0 b1 b2 last : Byte} {body : List Byte} (h : IsLocate (b0 :: b1 :: b2 :: (body ++ [last]))) :
    [0x06, 0x44, 0x06, 0x01] <+: body ∧ 9 ≤ body.length := by
  obtain ⟨len, h0, h1, h2, h3⟩ := h
  have nine : 9 ≤ body.length := by simpa [Config.lenLocate] using len
  refine ⟨prefix_of_getElem? (last := last) (Nat.le_trans (by decide : 4 ≤ 9) nine) ?_, nine⟩
  exact fun
    | 0, _ => h0
    | 1, _ => h1
    | 2, _ => h2
    | 3, _ => h3

theorem prefix_of_isFull {b0 b1 b2 last : Byte} {body : List Byte} (h : IsFull (b0 :: b1 :: b2 :: (body ++ [last]))) :
    [0x01, 0x01] <+: body ∧ 6 ≤ body.length := by
  obtain ⟨len, h0, h1⟩ := h
  have six : 6 ≤ body.length := by simpa [Config.lenFull] using len
  exact ⟨pair_prefix_of_getElem? (Nat.le_trans (by decide) six) h0 h1, six⟩

theorem prefix_of_isStop {b0 b1 b2 last : Byte} {body : List Byte} (h : IsStop (b0 :: b1 :: b2 :: (body ++ [last]))) :
    [0x06, 0x01] <+: body := by
  obtain ⟨len, h0, h1⟩ := h
  exact pair_prefix_of_getElem? (by simpa [Config.lenStop] using len) h0 h1

theorem prefix_of_isPlay {b0 b1 b2 last : Byte} {body : List Byte} (h : IsPlay (b0 :: b1 :: b2 :: (body ++ [last]))) :
    [0x06, 0x02] <+: body := by
  obtain ⟨len, h0, h1⟩ := h
  exact pair_prefix_of_getElem? (by simpa [Config.lenPlay] using len) h0 h1

/-- R114 to R116 on a framed SysEx: its answer is what its slice decodes to, whatever `len` and what follows the F7. -/
theorem exec_midiParse_framed {body post : List Byte} {len : Nat} {m : WireMessage} (s : State) (hb : 0xF7 ∉ body)
    (one : 1 ≤ len) (le : len ≤ (0xF0 :: 0x7F :: 0x7F :: (body ++ 0xF7 :: post) : List Byte).length)
    (d : decodeChecked (0xF0 :: 0x7F :: 0x7F :: (body ++ [0xF7])) = m) :
    exec (.midiParse (0xF0 :: 0x7F :: 0x7F :: (body ++ 0xF7 :: post)) len) s =
      .next (answered s (.ok (.event (eventOfMessage m)))) := by
  apply exec_midiParse_of_decodeMessage s (h := ⟨one, le⟩)
  rw [decodeMessage_sysex, if_pos (sysexOk_commandSlice_iff.mpr ⟨body, post, hb, rfl⟩), commandSlice_framed post len hb, d]

/-! ## Subframe (R124) -/

theorem subframe_eq_zero_of_eventOfMessage {w : WireMessage} {h m sec f u : Byte}
    (e : eventOfMessage w = .mmcLocate h m sec f u) : u = 0 := by
  cases w with
  | mmcLocate => exact (MidiEvent.mmcLocate.inj e).2.2.2.2.symm
  | mtcQuarter | mtcFull | mmcStop | mmcPlay | other => cases e

theorem subframe_eq_zero_of_midiParse {buf : List Byte} {len : Nat} {h m sec f u : Byte}
    (e : midiParse buf len = .ok (.mmcLocate h m sec f u)) : u = 0 := by
  rcases midiParse_cases buf len with ⟨-, he⟩ | ⟨-, -, -, he⟩ | ⟨_, he⟩ <;> rw [he] at e
  case inl | inr.inl => cases e
  case inr.inr => exact subframe_eq_zero_of_eventOfMessage (Except.ok.inj e)

theorem responseOf_map_event_eq_ok {o : Except ErrorKind MidiEvent} {e : MidiEvent}
    (h : responseOf (o.map .event) = .ok (.event e)) : o = .ok e := by
  cases o with
  | error k => cases h
  | ok e' =>
    cases h
    rfl

/-! ## The obligations -/

/-- Settles O9: the check passes on framed sequences only, so this slice fails it. -/
theorem failedSysexCheckIsOtherOfRequestedBytes : Obligations.FailedSysexCheckIsOtherOfRequestedBytes := by
  intro rest len s one le unframed
  have notOk : ¬SysexOk (commandSlice (0xF0 :: rest) len) := fun ok => unframed (sysexOk_commandSlice_iff.mp ok)
  exact exec_midiParse_of_decodeMessage s ((decodeMessage_sysex rest ⟨one, le⟩).trans (if_neg notOk))

/-- Settles O10: the slice begins as a Locate and is long enough, and `eventOfMessage` drops its wire subframe. -/
theorem locateDecode : Obligations.LocateDecode := by
  intro h m sec f u tail post len s fields one le
  exact exec_midiParse_framed (body := 0x06 :: 0x44 :: 0x06 :: 0x01 :: h :: m :: sec :: f :: u :: tail) s
    (by simpa using fields) one le (decodeChecked_locate 0xF0 0x7F 0x7F h m sec f u tail)

/-- Settles O11: the slice has the full-frame sub-IDs and length, and its first one is not Locate's. -/
theorem fullFrameDecode : Obligations.FullFrameDecode := by
  intro h m sec f tail post len s fields one le
  exact exec_midiParse_framed (body := 0x01 :: 0x01 :: h :: m :: sec :: f :: tail) s
    (by simpa using fields) one le (decodeChecked_full 0xF0 0x7F 0x7F h m sec f tail)

/-- Settles O12: sub-ID and command select the row, whatever stands between them and the F7. -/
theorem stopAndPlayDecode : Obligations.StopAndPlayDecode := by
  intro tail post len s ht one le
  constructor
  · exact exec_midiParse_framed (body := 0x06 :: 0x01 :: tail) s (by simpa using ht) one le
      (decodeChecked_stop 0xF0 0x7F 0x7F tail)
  · exact exec_midiParse_framed (body := 0x06 :: 0x02 :: tail) s (by simpa using ht) one le
      (decodeChecked_play 0xF0 0x7F 0x7F tail)

/-- Settles O13: each of the four predicates on the slice would make the body begin as it does not. -/
theorem unrecognisedSysexIsOtherOfSlice : Obligations.UnrecognisedSysexIsOtherOfSlice := by
  intro body post len s hb one le notLocate notFull notStop notPlay
  exact exec_midiParse_framed s hb one le (decodeChecked_other (fun h => notLocate (prefix_of_isLocate h))
    (fun h => notFull (prefix_of_isFull h)) (fun h => notStop (prefix_of_isStop h))
    (fun h => notPlay (prefix_of_isPlay h)))

/-- Settles O14: the response is the parser's own, whose Locates all come from `eventOfMessage`; the builder writes a
constant 00 at byte 11. -/
theorem subframeIsAlwaysZero : Obligations.SubframeIsAlwaysZero := by
  constructor
  case left =>
    intro buf len s t h m sec f u ht hr
    rw [exec_midiParse] at ht
    obtain rfl := Host.Outcome.next.inj ht
    exact subframe_eq_zero_of_midiParse (responseOf_map_event_eq_ok (Option.some.inj hr))
  case right =>
    intro s h m sec f u
    exact ⟨midiBuild (.mmcLocate h m sec f u), rfl, exec_midiBuild _ s⟩

/-- Settles O5: the test for `EmptyBuffer` is the outer one, and `BufferTooSmall` the next. -/
theorem midiParseLengthErrorsInOrder : Obligations.MidiParseLengthErrorsInOrder := by
  intro buf len s
  exact ⟨fun h => exec_midiParse_of_error s (midiParse_empty h),
    fun hl hb h => exec_midiParse_of_error s (midiParse_too_small hl hb h)⟩

/-- Settles O7: the nibbles of the second byte, as quotient and remainder by 16; with length 1 it is not read. -/
theorem quarterFrameDecode : Obligations.QuarterFrameDecode := by
  constructor
  case left =>
    intro data rest len s two le
    have d := decodeMessage_quarter data rest two ⟨by omega, le⟩
    exact ⟨widenNibble (highNibble data), widenNibble (lowNibble data), by simp, by simp,
      exec_midiParse_of_decodeMessage s d⟩
  case right =>
    intro rest s
    exact exec_midiParse_of_decodeMessage s (decodeMessage_quarter_truncated rest ⟨Nat.le_refl 1, by simp⟩)

/-- Settles O8: the first byte is that of no known message. -/
theorem nonSysexIsOtherOfRequestedBytes : Obligations.NonSysexIsOtherOfRequestedBytes := by
  intro b rest len s hs hq one le
  exact exec_midiParse_of_decodeMessage s (decodeMessage_nonSysex rest hq hs ⟨one, le⟩)

end Sys2Proof.Machine
end

section
/-! MIDI_BUILD, 42_midi_build.md R140 to R146: how an event operand decodes, and the bytes of each layout. -/

namespace Sys2Proof.Machine

/-- R25, R35: an event operand is a tag and fields, and these read back as the event. -/
theorem operandOfEvent_cases (e : MidiEvent) :
    ∃ tag fields, operandOfEvent e = .event tag fields ∧ eventOf? tag fields = some e := by
  cases e with
  | mtcQuarter t v => exact ⟨0, _, rfl, congrArg (Option.bind · _) (bytesOf?_map_toNat [t, v])⟩
  | mtcFull h m s f => exact ⟨1, _, rfl, congrArg (Option.bind · _) (bytesOf?_map_toNat [h, m, s, f])⟩
  | mmcStop => exact ⟨2, [], rfl, rfl⟩
  | mmcPlay => exact ⟨3, [], rfl, rfl⟩
  | mmcLocate h m s f u => exact ⟨4, _, rfl, congrArg (Option.bind · _) (bytesOf?_map_toNat [h, m, s, f, u])⟩
  | other bytes => exact ⟨5, _, rfl, eventOf?_other bytes⟩

theorem operandsOf?_build_event (e : MidiEvent) : operandsOf? 0x11 [operandOfEvent e] = some (.midiBuild e) := by
  obtain ⟨tag, fields, he, read⟩ := operandOfEvent_cases e
  simp [he, operandsOf?, read]

theorem decode_midiBuild {e : MidiEvent} (h : e.fits = true) :
    decode (.request ⟨0x11, [operandOfEvent e]⟩) = .ok (.midiBuild e) :=
  decode_request_of_operands (by decide) (operandsOf?_build_event e) h

/-- R140: the shift truncated to one byte keeps the low nibble of the type, above the masked value. -/
theorem quarterDataByte_toNat (t v : Byte) :
    (quarterDataByte t v).toNat = t.toNat * 16 % 256 + v.toNat % 16 := by
  have high : t.toNat <<< 4 % 2 ^ 8 = (t.toNat % 16) <<< 4 := by
    rw [Nat.shiftLeft_eq, Nat.shiftLeft_eq]
    omega
  have low : v.toNat &&& 15 = v.toNat % 16 := Nat.and_two_pow_sub_one_eq_mod v.toNat 4
  calc (quarterDataByte t v).toNat = (t.toNat % 16) <<< 4 ||| v.toNat % 16 := by rw [← high, ← low]; rfl
    _ = (t.toNat % 16) <<< 4 + v.toNat % 16 :=
      (Nat.shiftLeft_add_eq_or_of_lt (Nat.mod_lt _ (by decide : 0 < 2 ^ 4)) _).symm
    _ = t.toNat * 16 % 256 + v.toNat % 16 := by rw [Nat.shiftLeft_eq]; omega

/-- Settles O18: each layout is the builder's own list of constants and fields; the quarter frame's data byte is the one
that is computed. -/
theorem midiBuildLayouts : Obligations.MidiBuildLayouts := by
  refine ⟨fun e => decode_midiBuild, fun s => ⟨?quarter, ?full, ?stop, ?play, ?locate, ?other⟩⟩
  case quarter => exact fun t v => ⟨quarterDataByte t v, quarterDataByte_toNat t v, exec_midiBuild (.mtcQuarter t v) s⟩
  case full => exact fun h m sec f => exec_midiBuild (.mtcFull h m sec f) s
  case stop => exact exec_midiBuild .mmcStop s
  case play => exact exec_midiBuild .mmcPlay s
  case locate => exact fun h m sec f u => exec_midiBuild (.mmcLocate h m sec f u) s
  case other => exact fun bytes => exec_midiBuild (.other bytes) s

end Sys2Proof.Machine
end

section
/-! Binary64, 00_scope.md R16: how far a rounded quotient can lie from the exact one. Shared by all of R150's operations,
each of which is a quotient rounded by `f64OfRatio`. -/

namespace Sys2Proof.Machine

theorem f64Den_pos (x : F64) : 0 < f64Den x := Nat.two_pow_pos _

/-- A power of two split into its non-negative exponents, as the model splits every scale factor. -/
theorem two_pow_toNat_div_two_pow_neg_toNat (e : ℤ) : (2 ^ e.toNat : ℚ) / 2 ^ (-e).toNat = 2 ^ e := by
  rw [← zpow_natCast, ← zpow_natCast, ← zpow_sub₀ two_ne_zero]
  congr 1
  omega

theorem f64Num_div_f64Den (x : F64) : (f64Num x : ℚ) / f64Den x = f64Value x := by
  rw [f64Value, ← two_pow_toNat_div_two_pow_neg_toNat]
  simp [f64Num, f64Den, mul_div_assoc]

/-- A half more is rounded down, so the result lies at most a half above. -/
theorem roundHalfAway_le (x : F64) : (roundHalfAway x : ℚ) ≤ f64Value x + 1 / 2 := by
  have den : (0 : ℚ) < f64Den x := by exact_mod_cast f64Den_pos x
  calc (roundHalfAway x : ℚ) ≤ ((2 * f64Num x + f64Den x : ℕ) : ℚ) / (2 * f64Den x : ℕ) := Nat.cast_div_le
    _ = (f64Num x : ℚ) / f64Den x + 1 / 2 := by push_cast; field_simp
    _ = f64Value x + 1 / 2 := by rw [f64Num_div_f64Den]

/-- R16: what rounding adds or drops is at most half the divisor. -/
theorem two_mul_roundNearestEven_bounds (n : ℕ) {d : ℕ} (hd : 0 < d) :
    2 * n ≤ 2 * (roundNearestEven n d * d) + d ∧ 2 * (roundNearestEven n d * d) ≤ 2 * n + d := by
  have split_n := Nat.div_add_mod' n d
  have rem_lt := Nat.mod_lt n hd
  have rounded_up := Nat.add_one_mul (n / d) d
  simp only [roundNearestEven]
  split_ifs <;> omega

theorem abs_roundNearestEven_sub_le (n : ℕ) {d : ℕ} (hd : 0 < d) :
    |(roundNearestEven n d : ℚ) - n / d| ≤ 1 / 2 := by
  obtain ⟨lower, upper⟩ := two_mul_roundNearestEven_bounds n hd
  have d_pos : (0 : ℚ) < d := by exact_mod_cast hd
  qify at lower upper
  rw [abs_sub_le_iff]
  constructor <;> field_simp <;> linarith

/-- `binadeOf` does not exceed the exponent of its quotient. -/
theorem two_zpow_binadeOf_le {p q : ℕ} (hp : 0 < p) (hq : 0 < q) : (2 : ℚ) ^ binadeOf p q ≤ p / q := by
  have q_pos : (0 : ℚ) < q := by exact_mod_cast hq
  unfold binadeOf
  generalize hlog : (Nat.log2 p : ℤ) - (Nat.log2 q : ℤ) = a
  dsimp only
  split_ifs with fits
  case pos =>
    have fits' : (q : ℚ) * 2 ^ a.toNat ≤ p * 2 ^ (-a).toNat := by exact_mod_cast fits
    rw [← two_pow_toNat_div_two_pow_neg_toNat, div_le_div_iff₀ (by positivity) q_pos]
    linarith
  case neg =>
    have p_ge : (2 ^ Nat.log2 p : ℚ) ≤ p := by exact_mod_cast Nat.log2_self_le hp.ne'
    have q_le : (q : ℚ) ≤ 2 ^ (Nat.log2 q + 1) := by exact_mod_cast Nat.lt_log2_self.le
    calc (2 : ℚ) ^ (a - 1) = 2 ^ Nat.log2 p / 2 ^ (Nat.log2 q + 1) := by
          rw [← zpow_natCast, ← zpow_natCast, ← zpow_sub₀ two_ne_zero]
          congr 1
          omega
      _ ≤ p / q := div_le_div₀ (by positivity) p_ge q_pos q_le

/-- The quotient that is rounded, at the scale of its last significant bit. -/
theorem scaledRatio_mul_two_zpow (p q : ℕ) (e : ℤ) :
    ((p * 2 ^ (-e).toNat : ℕ) : ℚ) / (q * 2 ^ e.toNat : ℕ) * 2 ^ e = p / q := by
  rw [← two_pow_toNat_div_two_pow_neg_toNat]
  push_cast
  field_simp

/-- The last of 53 significant bits weighs at most `2^-52` of the quotient, and rounding errs by at most half of it. -/
theorem abs_f64OfRatio_sub_le (p : ℕ) {q : ℕ} (hq : 0 < q) :
    |f64Value (f64OfRatio p q) - p / q| ≤ p / q / 2 ^ 53 := by
  rcases Nat.eq_zero_or_pos p with rfl | hp
  case inl => simp [f64OfRatio, f64Value]
  case inr =>
    have last_bit : (2 : ℚ) ^ (binadeOf p q - 52) ≤ p / q / 2 ^ 52 := by
      rw [zpow_sub₀ two_ne_zero]
      exact div_le_div_of_nonneg_right (two_zpow_binadeOf_le hp hq) (by positivity)
    simp only [f64OfRatio, if_neg hp.ne', f64Value]
    generalize binadeOf p q - 52 = e at last_bit
    have round := abs_roundNearestEven_sub_le (p * 2 ^ (-e).toNat) (d := q * 2 ^ e.toNat) (by positivity)
    have scale_pos : (0 : ℚ) < 2 ^ e := by positivity
    rw [← scaledRatio_mul_two_zpow p q e, ← sub_mul, abs_mul, abs_of_pos scale_pos, scaledRatio_mul_two_zpow]
    calc _ ≤ 1 / 2 * (2 : ℚ) ^ e := mul_le_mul_of_nonneg_right round scale_pos.le
      _ ≤ p / q / 2 ^ 53 := by linarith

theorem abs_f64OfNat_sub_le (n : ℕ) : |f64Value (f64OfNat n) - n| ≤ n / 2 ^ 53 := by
  simpa [f64OfNat] using abs_f64OfRatio_sub_le n Nat.one_pos

theorem abs_f64Mul_sub_le (a b : F64) :
    |f64Value (f64Mul a b) - f64Value a * f64Value b| ≤ f64Value a * f64Value b / 2 ^ 53 := by
  have exact_product : ((f64Num a * f64Num b : ℕ) : ℚ) / (f64Den a * f64Den b : ℕ) = f64Value a * f64Value b := by
    rw [← f64Num_div_f64Den a, ← f64Num_div_f64Den b, div_mul_div_comm]
    push_cast
    rfl
  rw [← exact_product]
  exact abs_f64OfRatio_sub_le _ (Nat.mul_pos (f64Den_pos a) (f64Den_pos b))

theorem f64Num_pos {x : F64} (h : 0 < f64Value x) : 0 < f64Num x := by
  refine Nat.pos_of_ne_zero fun zero => ?_
  rw [← f64Num_div_f64Den, zero] at h
  simp at h

theorem abs_f64Div_sub_le (a : F64) {b : F64} (hb : 0 < f64Value b) :
    |f64Value (f64Div a b) - f64Value a / f64Value b| ≤ f64Value a / f64Value b / 2 ^ 53 := by
  have exact_quotient : ((f64Num a * f64Den b : ℕ) : ℚ) / (f64Den a * f64Num b : ℕ) = f64Value a / f64Value b := by
    rw [← f64Num_div_f64Den a, ← f64Num_div_f64Den b, div_div_div_eq]
    push_cast
    rfl
  rw [← exact_quotient]
  exact abs_f64OfRatio_sub_le _ (Nat.mul_pos (f64Den_pos a) (f64Num_pos hb))

/-! R150's constants are exact. -/

theorem f64Value_thirty : f64Value (f64OfNat 30) = 30 := by
  have rounded : f64OfNat 30 = ⟨8444249301319680, -48⟩ := by decide
  norm_num [rounded, f64Value]

theorem f64Value_one : f64Value (f64OfNat 1) = 1 := by
  have rounded : f64OfNat 1 = ⟨4503599627370496, -52⟩ := by decide
  norm_num [rounded, f64Value]

theorem f64Value_million : f64Value (f64OfNat 1000000) = 1000000 := by
  have rounded : f64OfNat 1000000 = ⟨8589934592000000, -33⟩ := by decide
  norm_num [rounded, f64Value]

end Sys2Proof.Machine
end

section
/-! Microseconds and timecode, 43_timecode.md R150 and R160: the bound on the frame number, the fields it gives, the
weights of the fields, and how the requests decode. -/

namespace Sys2Proof.Machine

theorem decode_usToSmpte (us : Microseconds) : decode (.request ⟨0x20, [.num us.toNat]⟩) = .ok (.usToSmpte us) :=
  decode_request_of_operands (by decide) (by simp [operandsOf?]) rfl

theorem timecodeOf?_toNat (f : MtcFullFrame) :
    timecodeOf? [f.hours.toNat, f.minutes.toNat, f.seconds.toNat, f.frames.toNat] = some f :=
  congrArg (Option.bind · _) (bytesOf?_map_toNat [f.hours, f.minutes, f.seconds, f.frames])

theorem decode_smpteToUs (f : MtcFullFrame) :
    decode (.request ⟨0x21, [.timecode [f.hours.toNat, f.minutes.toNat, f.seconds.toNat, f.frames.toNat]]⟩) =
      .ok (.smpteToUs f) :=
  decode_request_of_operands (by decide) (by simp [operandsOf?, timecodeOf?_toNat]) rfl

theorem exec_usToSmpte (us : Microseconds) (s : State) :
    exec (.usToSmpte us) s = .next (answered s (.ok (.timecode (timecodeOfFramenum (framenumOfUs us))))) :=
  congrArg Host.Outcome.next (State.complete_eq_answered s _)

theorem exec_smpteToUs (f : MtcFullFrame) (s : State) :
    exec (.smpteToUs f) s = .next (answered s (.ok (.us (smpteToUs f)))) :=
  congrArg Host.Outcome.next (State.complete_eq_answered s _)

/-- R150: four roundings, each up by at most `2^-53` of its exact value, keep `2^64 * 30 / 10^6` below `2^49`. -/
theorem framenumOfUs_lt (us : Microseconds) : framenumOfUs us < 2 ^ 49 := by
  have us_lt : (us.toNat : ℚ) < 2 ^ 64 := by exact_mod_cast us.isLt
  let converted := f64OfNat us.toNat
  let product := f64Mul converted (f64OfNat 30)
  let quotient := f64Div product (f64OfNat 1)
  have converted_le := abs_f64OfNat_sub_le us.toNat
  have product_le := abs_f64Mul_sub_le converted (f64OfNat 30)
  have quotient_le := abs_f64Div_sub_le product (b := f64OfNat 1) (by rw [f64Value_one]; norm_num)
  have frames_le := abs_f64Div_sub_le quotient (b := f64OfNat 1000000) (by rw [f64Value_million]; norm_num)
  rw [f64Value_thirty] at product_le
  rw [f64Value_one] at quotient_le
  rw [f64Value_million] at frames_le
  rw [abs_sub_le_iff] at converted_le product_le quotient_le frames_le
  have below : (framenumOfUs us : ℚ) < 2 ^ 49 :=
    calc (framenumOfUs us : ℚ) ≤ f64Value (f64Div quotient (f64OfNat 1000000)) + 1 / 2 := roundHalfAway_le _
      _ < 2 ^ 49 := by linarith
  exact_mod_cast below

theorem timecodeOfFramenum_frames (n : ℕ) : (timecodeOfFramenum n).frames.toNat = n % 30 :=
  Nat.mod_eq_of_lt (by omega)

theorem timecodeOfFramenum_seconds (n : ℕ) : (timecodeOfFramenum n).seconds.toNat = n / 30 % 60 :=
  Nat.mod_eq_of_lt (by omega)

theorem timecodeOfFramenum_minutes (n : ℕ) : (timecodeOfFramenum n).minutes.toNat = n / 30 / 60 % 60 :=
  Nat.mod_eq_of_lt (by omega)

theorem timecodeOfFramenum_hours (n : ℕ) : (timecodeOfFramenum n).hours.toNat = n / 30 / 3600 % 24 :=
  Nat.mod_eq_of_lt (by omega)

/-- R160: the weighted sum of four bytes is at most 28_006_905, so 64 bits hold the result. -/
theorem smpteToUs_toNat (f : MtcFullFrame) : (smpteToUs f).toNat = framenumOfTimecode f * 1000000 / 30 := by
  have hours := f.hours.isLt
  have minutes := f.minutes.isLt
  have seconds := f.seconds.isLt
  have frames := f.frames.isLt
  have bound : framenumOfTimecode f ≤ 28006905 := by
    unfold framenumOfTimecode
    omega
  rw [smpteToUs, BitVec.toNat_ofNat, Config.usPerS, Config.fps, Nat.mod_eq_of_lt (by omega)]

/-- Settles O20: the frame number is the model's own; its bound is `framenumOfUs_lt`, and every field is a remainder
below 256. -/
theorem usToSmpteByBinary64 : Obligations.UsToSmpteByBinary64 := by
  intro us s
  exact ⟨decode_usToSmpte us, framenumOfUs us, timecodeOfFramenum (framenumOfUs us), rfl, framenumOfUs_lt us,
    timecodeOfFramenum_frames _, timecodeOfFramenum_seconds _, timecodeOfFramenum_minutes _, timecodeOfFramenum_hours _,
    exec_usToSmpte us s⟩

/-- Settles O23: the answer is `smpteToUs`, whose 64 bits hold the truncated quotient. -/
theorem smpteToUsTruncates : Obligations.SmpteToUsTruncates := by
  intro f s
  exact ⟨decode_smpteToUs f, smpteToUs f, smpteToUs_toNat f, exec_smpteToUs f s⟩

end Sys2Proof.Machine
end

section
/-! Quarter frames, 43_timecode.md R165 and R170: the nibbles of each field, the pass over the eight frames, and the
fields put together again. -/

namespace Sys2Proof.Machine

/-! ## Splitting (R165, R166) -/

theorem decode_smpteToQf (f : MtcFullFrame) :
    decode (.request ⟨0x22, [.timecode [f.hours.toNat, f.minutes.toNat, f.seconds.toNat, f.frames.toNat]]⟩) =
      .ok (.smpteToQf f) :=
  decode_request_of_operands (by decide) (by simp [operandsOf?, timecodeOf?_toNat]) rfl

theorem exec_smpteToQf (f : MtcFullFrame) (s : State) :
    exec (.smpteToQf f) s = .next (answered s (.ok (.quarterFrames (smpteToQf f)))) :=
  congrArg Host.Outcome.next (State.complete_eq_answered s _)

@[simp] theorem fieldLow_toNat (b : Byte) : (fieldLow b).toNat = b.toNat % 16 :=
  Nat.and_two_pow_sub_one_eq_mod b.toNat 4

@[simp] theorem fieldHigh_toNat (b : Byte) : (fieldHigh b).toNat = b.toNat / 16 := by
  simp [fieldHigh, Nat.shiftRight_eq_div_pow]

/-- R166: the rate code stands above bit 0, so setting that bit adds to it. -/
@[simp] theorem hoursHighValue_toNat (hours : Byte) : (hoursHighValue hours).toNat = 6 + hours.toNat / 16 % 2 := by
  have bit4 : (hours.toNat >>> 4) &&& 1 = hours.toNat / 16 % 2 := by
    rw [Nat.and_one_is_mod, Nat.shiftRight_eq_div_pow]
  calc (hoursHighValue hours).toNat = 3 <<< 1 ||| hours.toNat / 16 % 2 := by rw [← bit4]; rfl
    _ = 6 + hours.toNat / 16 % 2 := (Nat.shiftLeft_add_eq_or_of_lt (Nat.mod_lt _ (by decide : 0 < 2 ^ 1)) 3).symm

/-- Settles O26: the types are the constants of the table, and the values its nibbles and the rate code. -/
theorem smpteToQfSplitsNibbles : Obligations.SmpteToQfSplitsNibbles := by
  intro f s
  exact ⟨decode_smpteToQf f, smpteToQf f, rfl, by simp [quarterFrameList, smpteToQf], exec_smpteToQf f s⟩

/-! ## The pass (R170, R211) -/

theorem decode_qfToSmpte (q : QuarterFrameArray) :
    decode (.request ⟨0x23, [operandOfQuarterFrames q]⟩) = .ok (.qfToSmpte q) := by
  have read : quarterArrayOf? ((quarterFrameList q).map fun a => (a.frameType.toNat, a.value.toNat)) = some q :=
    congrArg (Option.bind · _) (quarterFramesOf?_map_toNat (quarterFrameList q))
  exact decode_request_of_operands (by decide) (by simp [operandsOf?, operandOfQuarterFrames, read]) rfl

/-- The first `i` frames pass both checks, so the pass goes on at the `i`-th. -/
theorem quarterFrameScan_eq_drop {qs : List MtcQuarterFrame} {k i : ℕ}
    (pass : ∀ (j : ℕ) (b : MtcQuarterFrame), j < i → qs[j]? = some b → b.frameType.toNat = k + j ∧ b.value.toNat ≤ 15) :
    quarterFrameScan k qs = quarterFrameScan (k + i) (qs.drop i) := by
  induction i generalizing k qs with
  | zero => rfl
  | succ i ih =>
    cases qs with
    | nil => rfl
    | cons q qs =>
      obtain ⟨type, value⟩ := pass 0 q i.succ_pos rfl
      have rest := ih (qs := qs) (k := k + 1) fun j b hj hb => by
        have := pass (j + 1) b (Nat.succ_lt_succ hj) hb
        omega
      rw [List.drop_succ_cons, ← Nat.add_assoc, Nat.add_right_comm, ← rest]
      simp [quarterFrameScan, type, value]

theorem quarterFrameScan_bad_type {i : ℕ} {a : MtcQuarterFrame} (qs : List MtcQuarterFrame) (h : a.frameType.toNat ≠ i) :
    quarterFrameScan i (a :: qs) = some .invalidFrameType :=
  if_pos h

theorem quarterFrameScan_bad_value {i : ℕ} {a : MtcQuarterFrame} (qs : List MtcQuarterFrame)
    (type : a.frameType.toNat = i) (h : 15 < a.value.toNat) : quarterFrameScan i (a :: qs) = some .invalidValue := by
  rw [quarterFrameScan, if_neg (not_not_intro type), if_pos h]

theorem exec_qfToSmpte (q : QuarterFrameArray) (s : State) :
    exec (.qfToSmpte q) s = .next (answered s (responseOf ((qfToSmpte q).map .timecode))) :=
  congrArg Host.Outcome.next (State.complete_eq_answered s _)

theorem exec_qfToSmpte_of_ok {q : QuarterFrameArray} {f : MtcFullFrame} (s : State) (h : qfToSmpte q = .ok f) :
    exec (.qfToSmpte q) s = .next (answered s (.ok (.timecode f))) := by
  rw [exec_qfToSmpte, h]
  rfl

theorem exec_qfToSmpte_of_error {q : QuarterFrameArray} {k : ErrorKind} (s : State) (h : qfToSmpte q = .error k) :
    exec (.qfToSmpte q) s = .next (answered s (.err k)) := by
  rw [exec_qfToSmpte, h]
  rfl

theorem qfToSmpte_of_scan_some {q : QuarterFrameArray} {k : ErrorKind}
    (h : quarterFrameScan 0 (quarterFrameList q) = some k) : qfToSmpte q = .error k := by
  rw [qfToSmpte, h]

theorem qfToSmpte_of_scan_none {q : QuarterFrameArray} (h : quarterFrameScan 0 (quarterFrameList q) = none) :
    qfToSmpte q =
      if InRange (reassemble q) ∧ rateOf q.q7.value = 3 then .ok (reassemble q) else .error .invalidValue := by
  rw [qfToSmpte, h]
  rfl

/-! ## Putting the fields together (R170) -/

theorem joinNibbles_toNat {low high : Byte} (hl : low.toNat ≤ 15) (hh : high.toNat ≤ 15) :
    (joinNibbles low high).toNat = low.toNat + 16 * high.toNat := by
  have shifted : (high <<< 4).toNat = high.toNat <<< 4 := by
    rw [BitVec.toNat_shiftLeft, Nat.mod_eq_of_lt (by rw [Nat.shiftLeft_eq]; omega)]
  have low_lt : low.toNat < 2 ^ 4 := by omega
  rw [joinNibbles, BitVec.toNat_or, shifted, Nat.or_comm, ← Nat.shiftLeft_add_eq_or_of_lt low_lt, Nat.shiftLeft_eq]
  omega

theorem and_one_toNat (v : Byte) : (v &&& 0x01).toNat = v.toNat % 2 := Nat.and_one_is_mod v.toNat

theorem rateOf_eq (v : Byte) : rateOf v = v.toNat / 2 % 4 := by
  rw [rateOf, Nat.shiftRight_eq_div_pow]
  exact Nat.and_two_pow_sub_one_eq_mod _ 2

/-- The fields as R170 weights them, of frames that have passed the value checks. -/
theorem reassemble_toNat {q : QuarterFrameArray} (nibbles : ∀ a ∈ quarterFrameList q, a.value.toNat ≤ 15) :
    (reassemble q).frames.toNat = q.q0.value.toNat + 16 * q.q1.value.toNat ∧
    (reassemble q).seconds.toNat = q.q2.value.toNat + 16 * q.q3.value.toNat ∧
    (reassemble q).minutes.toNat = q.q4.value.toNat + 16 * q.q5.value.toNat ∧
    (reassemble q).hours.toNat = q.q6.value.toNat + 16 * (q.q7.value.toNat % 2) := by
  simp only [quarterFrameList, List.forall_mem_cons] at nibbles
  obtain ⟨v0, v1, v2, v3, v4, v5, v6, -⟩ := nibbles
  have bit0 : (q.q7.value &&& 0x01).toNat ≤ 15 := by rw [and_one_toNat]; omega
  exact ⟨joinNibbles_toNat v0 v1, joinNibbles_toNat v2 v3, joinNibbles_toNat v4 v5,
    and_one_toNat q.q7.value ▸ joinNibbles_toNat v6 bit0⟩

/-- Settles O27: the pass goes on at the first index that fails and answers its error; where all pass, R170's tests are on
the reassembled fields. -/
theorem qfToSmpteReassembles : Obligations.QfToSmpteReassembles := by
  refine ⟨decode_qfToSmpte, ?failing, ?passed⟩
  case failing =>
    intro q i a s at_i pass
    have scan : quarterFrameScan 0 (quarterFrameList q) = quarterFrameScan i (a :: (quarterFrameList q).drop (i + 1)) := by
      rw [quarterFrameScan_eq_drop (k := 0) (by simpa using pass), Nat.zero_add,
        List.drop_eq_getElem?_toList_append, at_i]
      rfl
    exact ⟨fun type => exec_qfToSmpte_of_error s (qfToSmpte_of_scan_some (scan.trans (quarterFrameScan_bad_type _ type))),
      fun type value =>
        exec_qfToSmpte_of_error s (qfToSmpte_of_scan_some (scan.trans (quarterFrameScan_bad_value _ type value)))⟩
  case passed =>
    rintro q s _ _ _ _ _ pass rfl rfl rfl rfl rfl
    have scan : quarterFrameScan 0 (quarterFrameList q) = none :=
      quarterFrameScan_eq_drop (k := 0) (i := 8) fun j b _ at_j => by simpa using pass j b at_j
    have nibbles : ∀ a ∈ quarterFrameList q, a.value.toNat ≤ 15 := fun a ha => by
      obtain ⟨i, at_i⟩ := List.mem_iff_getElem?.mp ha
      exact (pass i a at_i).2
    obtain ⟨frames, seconds, minutes, hours⟩ := reassemble_toNat nibbles
    rw [← frames, ← seconds, ← minutes, ← hours, ← rateOf_eq]
    split_ifs with ok
    case pos =>
      have tests : InRange (reassemble q) ∧ rateOf q.q7.value = 3 := by simpa only [and_assoc] using ok
      exact ⟨reassemble q, rfl, rfl, rfl, rfl,
        exec_qfToSmpte_of_ok s ((qfToSmpte_of_scan_none scan).trans (if_pos tests))⟩
    case neg =>
      have tests : ¬(InRange (reassemble q) ∧ rateOf q.q7.value = 3) := by simpa only [and_assoc] using ok
      exact exec_qfToSmpte_of_error s ((qfToSmpte_of_scan_none scan).trans (if_neg tests))

end Sys2Proof.Machine
end

section
/-! The netsync flows, 44_netsync_flow.md R180 and R183: how their requests decode, the master's payload as one header byte
before the built message, and the slave's answer as the parser's with every error made `InvalidSlaveEvent`. -/

namespace Sys2Proof.Machine

/-! ## MASTER_FLOW (R180) -/

theorem operandsOf?_master_event (e : MidiEvent) : operandsOf? 0x30 [operandOfEvent e] = some (.masterFlow e) := by
  obtain ⟨tag, fields, he, read⟩ := operandOfEvent_cases e
  simp [he, operandsOf?, read]

theorem decode_masterFlow {e : MidiEvent} (h : e.fits = true) :
    decode (.request ⟨0x30, [operandOfEvent e]⟩) = .ok (.masterFlow e) :=
  decode_request_of_operands (by decide) (operandsOf?_master_event e) h

theorem exec_masterFlow (e : MidiEvent) (s : State) :
    exec (.masterFlow e) s = .next (answered s (responseOf ((masterFlow e).map .bytes))) :=
  congrArg Host.Outcome.next (State.complete_eq_answered s _)

/-- Every fixed length fits the header's 4-bit `len`. -/
theorem fixedLength_lt {e : MidiEvent} {n : Nat} (h : fixedLength e = some n) : n < 16 := by
  cases e with
  | other => cases h
  | mtcQuarter | mtcFull | mmcStop | mmcPlay | mmcLocate =>
    cases h
    decide

/-- With flags 0 the header byte is the length itself. -/
theorem hdrSerialize_masterHeader {n : Nat} (h : n < 16) :
    hdrSerialize (hdrNew masterFlags (BitVec.ofNat 8 n)) = [BitVec.ofNat 8 n] := by
  have byte : byteOfHeader (hdrNew masterFlags (BitVec.ofNat 8 n)) = BitVec.ofNat 8 n := by
    apply BitVec.eq_of_toNat_eq
    have byte_lt : n < 256 := by omega
    simp [hdrNew, masterFlags, Nat.mod_eq_of_lt h, Nat.mod_eq_of_lt byte_lt]
  rw [hdrSerialize, byte]

theorem masterFlow_of_fixedLength {e : MidiEvent} {n : Nat} (h : fixedLength e = some n) :
    masterFlow e = .ok (BitVec.ofNat 8 n :: midiBuild e) := by
  simp only [masterFlow, h, hdrSerialize_masterHeader (fixedLength_lt h), List.singleton_append]

theorem masterFlow_other (bytes : List Byte) : masterFlow (.other bytes) = .error .invalidMasterEvent := rfl

theorem exec_masterFlow_of_fixedLength {e : MidiEvent} {n : Nat} (s : State) (h : fixedLength e = some n) :
    exec (.masterFlow e) s = .next (answered s (.ok (.bytes (BitVec.ofNat 8 n :: midiBuild e)))) := by
  rw [exec_masterFlow, masterFlow_of_fixedLength h]
  rfl

theorem exec_masterFlow_other (bytes : List Byte) (s : State) :
    exec (.masterFlow (.other bytes)) s = .next (answered s (.err .invalidMasterEvent)) := by
  rw [exec_masterFlow, masterFlow_other]
  rfl

/-- Settles O29: `Other` alone has no fixed length; each other variant's payload is its length byte before the builder's
layout, where the quarter frame's data byte is the one that is computed. -/
theorem masterFlowPayloads : Obligations.MasterFlowPayloads := by
  refine ⟨fun e => decode_masterFlow, fun s => ⟨?other, ?quarter, ?full, ?stop, ?play, ?locate⟩⟩
  case other => exact fun bytes => exec_masterFlow_other bytes s
  case quarter => exact fun t v => ⟨quarterDataByte t v, quarterDataByte_toNat t v, exec_masterFlow_of_fixedLength s rfl⟩
  case full => exact fun h m sec f => exec_masterFlow_of_fixedLength s rfl
  case stop => exact exec_masterFlow_of_fixedLength s rfl
  case play => exact exec_masterFlow_of_fixedLength s rfl
  case locate => exact fun h m sec f u => exec_masterFlow_of_fixedLength s rfl

/-! ## SLAVE_FLOW (R183, R184) -/

theorem decode_slaveFlow {p : List Byte} (h : p.length ≤ Config.bufCap) :
    decode (.request ⟨0x31, [.bytes p]⟩) = .ok (.slaveFlow p) :=
  decode_request_of_operands (by decide) rfl (decide_eq_true h)

theorem exec_slaveFlow (p : List Byte) (s : State) :
    exec (.slaveFlow p) s = .next (answered s (responseOf ((slaveFlow p).map .event))) :=
  congrArg Host.Outcome.next (State.complete_eq_answered s _)

theorem exec_slaveFlow_of_ok {p : List Byte} {e : MidiEvent} (s : State) (h : slaveFlow p = .ok e) :
    exec (.slaveFlow p) s = .next (answered s (.ok (.event e))) := by
  rw [exec_slaveFlow, h]
  rfl

theorem exec_slaveFlow_of_error {p : List Byte} {k : ErrorKind} (s : State) (h : slaveFlow p = .error k) :
    exec (.slaveFlow p) s = .next (answered s (.err k)) := by
  rw [exec_slaveFlow, h]
  rfl

theorem slaveFlow_of_short {p : List Byte} (h : p.length < 3) : slaveFlow p = .error .invalidSlaveEvent :=
  if_pos h

/-- R184: from 3 bytes on, the parser decides at the header's length, and its errors collapse to one. -/
theorem slaveFlow_cons (b : Byte) {rest : List Byte} (two : 2 ≤ rest.length) :
    slaveFlow (b :: rest) = (midiParse rest (b.toNat % 16)).mapError fun _ => .invalidSlaveEvent := by
  have long : ¬(b :: rest).length < 3 := by
    rw [List.length_cons]
    omega
  have len : (headerOfByte b).len.toNat = b.toNat % 16 := lowNibble_toNat b
  simp only [slaveFlow, if_neg long, hdrParse, List.tail_cons, len]
  cases midiParse rest (b.toNat % 16) with
  | error k => rfl
  | ok e => rfl

/-- R110, R128: a length of 0 and one beyond the buffer both fail; which error it is does not matter to a flow. -/
theorem exists_midiParse_error {buf : List Byte} {len : Nat} (h : len = 0 ∨ buf.length < len) :
    ∃ k, midiParse buf len = .error k := by
  rcases midiParse_cases buf len with ⟨-, failed⟩ | ⟨-, -, -, failed⟩ | ⟨fits, -⟩
  · exact ⟨_, failed⟩
  · exact ⟨_, failed⟩
  · omega

/-- Settles O31: the two length failures are exactly the parser's, and past them the parser's event is the answer. -/
theorem slaveFlowParsesAfterTheHeader : Obligations.SlaveFlowParsesAfterTheHeader := by
  refine ⟨fun p => decode_slaveFlow, fun p s short => exec_slaveFlow_of_error s (slaveFlow_of_short short), ?parsed⟩
  case parsed =>
    intro b rest s s' two
    have flow := slaveFlow_cons b two
    split_ifs with bad
    case pos =>
      obtain ⟨k, failed⟩ := exists_midiParse_error bad
      rw [failed] at flow
      exact exec_slaveFlow_of_error s flow
    case neg =>
      have fits : 1 ≤ b.toNat % 16 ∧ b.toNat % 16 ≤ rest.length := by omega
      rw [midiParse_of_le fits] at flow
      exact ⟨_, exec_midiParse_of_decodeMessage s' rfl, exec_slaveFlow_of_ok s flow⟩

end Sys2Proof.Machine
end

section
/-! The host adapter, 45_host_adapter.md R196 to R198: every payload the master entry point asks for is accepted and at most
14 bytes long, and the outcomes of both entry points while the block is idle. -/

namespace Sys2Proof.Machine

/-! ## ADAPTER_MASTER (R196) -/

/-- R181: the built message has the variant's fixed length. -/
theorem length_midiBuild {e : MidiEvent} {n : Nat} (h : fixedLength e = some n) : (midiBuild e).length = n := by
  cases e with
  | other => cases h
  | mtcQuarter | mtcFull | mmcStop | mmcPlay | mmcLocate =>
    cases h
    rfl

/-- The Locate is the longest message of a fixed length. -/
theorem fixedLength_le_lenLocate {e : MidiEvent} {n : Nat} (h : fixedLength e = some n) : n ≤ Config.lenLocate := by
  cases e with
  | other => cases h
  | mtcQuarter | mtcFull | mmcStop | mmcPlay | mmcLocate =>
    cases h
    decide

theorem fits_of_fixedLength {e : MidiEvent} {n : Nat} (h : fixedLength e = some n) : e.fits = true := by
  cases e with
  | other => cases h
  | mtcQuarter | mtcFull | mmcStop | mmcPlay | mmcLocate => rfl

/-- R192: no descriptor stands for an `Other`. -/
theorem exists_fixedLength_of_eventOfDescriptor {d : Descriptor} {e : MidiEvent} (h : eventOfDescriptor d = some e) :
    ∃ n, fixedLength e = some n := by
  cases e with
  | other =>
    unfold eventOfDescriptor at h
    split_ifs at h
    all_goals cases h
  | mtcQuarter | mtcFull | mmcStop | mmcPlay | mmcLocate => exact ⟨_, rfl⟩

/-- R180 at the interface: neither the bound of R66 nor MASTER_FLOW rejects an event of a fixed length. -/
theorem masterRequest_of_fixedLength {e : MidiEvent} {n : Nat} (h : fixedLength e = some n) :
    masterRequest e = .ok (BitVec.ofNat 8 n :: midiBuild e) := by
  rw [masterRequest, if_pos (fits_of_fixedLength h), masterFlow_of_fixedLength h]

/-- R196, R198: an accepted descriptor's payload always exists, so code 1 is never reached, and it is at most 14 bytes. -/
theorem exists_masterRequest_of_eventOfDescriptor {d : Descriptor} {e : MidiEvent} (h : eventOfDescriptor d = some e) :
    ∃ p, masterRequest e = .ok p ∧ p.length ≤ 14 := by
  obtain ⟨n, len⟩ := exists_fixedLength_of_eventOfDescriptor h
  refine ⟨_, masterRequest_of_fixedLength len, ?_⟩
  rw [List.length_cons, length_midiBuild len]
  exact Nat.succ_le_succ (fixedLength_le_lenLocate len)

theorem exec_adapterMaster_of_rejected {d : Descriptor} (cap : Nat) {s : State} (idle : s.busy = false)
    (h : eventOfDescriptor d = none) : exec (.adapterMaster d cap) s = .next (s.returnCall .invalidEventType 0) := by
  have arm : exec (.adapterMaster d cap) s = execAdapterMaster d cap s := rfl
  simp [arm, execAdapterMaster, idle, h]

theorem exec_adapterMaster_of_accepted {d : Descriptor} {e : MidiEvent} (cap : Nat) {s : State} (idle : s.busy = false)
    (h : eventOfDescriptor d = some e) : exec (.adapterMaster d cap) s = .next (adapterMaster e cap s) := by
  have arm : exec (.adapterMaster d cap) s = execAdapterMaster d cap s := rfl
  simp [arm, execAdapterMaster, idle, h]

/-- R196: the outcomes of a master call of an idle block. -/
theorem exec_adapterMaster_cases (d : Descriptor) (cap : Nat) {s : State} (idle : s.busy = false) :
    (eventOfDescriptor d = none ∧ exec (.adapterMaster d cap) s = .next (s.returnCall .invalidEventType 0)) ∨
    ∃ e p, eventOfDescriptor d = some e ∧ masterRequest e = .ok p ∧ p.length ≤ 14 ∧
      ((cap < p.length ∧ exec (.adapterMaster d cap) s = .next (s.adapterTakes.returnCall .bufferTooSmall 0)) ∨
       (p.length ≤ cap ∧
        exec (.adapterMaster d cap) s = .next ((s.adapterTakes.writeCallerBuf p).returnCall .success p.length))) := by
  cases event : eventOfDescriptor d with
  | none => exact .inl ⟨rfl, exec_adapterMaster_of_rejected cap idle event⟩
  | some e =>
    obtain ⟨p, request, short⟩ := exists_masterRequest_of_eventOfDescriptor event
    refine .inr ⟨e, p, rfl, request, short, ?_⟩
    rw [exec_adapterMaster_of_accepted cap idle event]
    rcases adapterMaster_cases e cap s with ⟨k, failed, -⟩ | ⟨p', built, small, after⟩ | ⟨p', built, large, after⟩
    · cases request.symm.trans failed
    · cases request.symm.trans built
      exact .inl ⟨small, congrArg _ after⟩
    · cases request.symm.trans built
      exact .inr ⟨large, congrArg _ after⟩

/-! ## ADAPTER_SLAVE (R197) -/

theorem exec_adapterSlave_of_idle (p : List Byte) {s : State} (idle : s.busy = false) :
    exec (.adapterSlave p) s = .next (adapterSlave p s) := by
  have arm : exec (.adapterSlave p) s = execAdapterSlave p s := rfl
  simp [arm, execAdapterSlave, idle]

/-- R197: the outcomes of a slave call of an idle block. -/
theorem exec_adapterSlave_cases (p : List Byte) {s : State} (idle : s.busy = false) :
    (∃ k, slaveRequest p = .error k ∧
      exec (.adapterSlave p) s = .next (s.adapterTakes.returnCall .invalidSlaveEvent 0)) ∨
    (∃ e, slaveRequest p = .ok e ∧ descriptorOfEvent e = none ∧
      exec (.adapterSlave p) s = .next (s.adapterTakes.returnCall .invalidEventType 0)) ∨
    ∃ e d, slaveRequest p = .ok e ∧ descriptorOfEvent e = some d ∧
      exec (.adapterSlave p) s = .next ((s.adapterTakes.writeCallerDesc d).returnCall .success 0) := by
  rw [exec_adapterSlave_of_idle p idle]
  cases request : slaveRequest p with
  | error k => exact .inl ⟨k, rfl, by simp [adapterSlave, request]⟩
  | ok e =>
    cases desc : descriptorOfEvent e with
    | none => exact .inr (.inl ⟨e, rfl, desc, by simp [adapterSlave, request, desc]⟩)
    | some d => exact .inr (.inr ⟨e, d, rfl, desc, by simp [adapterSlave, request, desc]⟩)

/-! ## Codes and maximum (R194, R195, R198) -/

/-- Settles O39: the codes are read off the outcomes of each entry point; the capacity is too small only below 14 bytes,
which the maximum of 16 is not. -/
theorem adapterCodesAndMaximum : Obligations.AdapterCodesAndMaximum := by
  refine ⟨rfl, rfl, ?master, ?slave⟩
  case master =>
    intro d cap s t idle call
    rcases exec_adapterMaster_cases d cap idle with
      ⟨-, after⟩ | ⟨e, p, -, -, short, ⟨small, after⟩ | ⟨-, after⟩⟩
    · cases call.symm.trans after
      exact ⟨⟨.invalidEventType, 0⟩, rfl, by decide, by decide, fun _ => by decide⟩
    · cases call.symm.trans after
      have below : cap < adapterMaxBufferSize := (small.trans_le short).trans (by decide)
      exact ⟨⟨.bufferTooSmall, 0⟩, rfl, by decide, by decide, fun enough => absurd below enough.not_gt⟩
    · cases call.symm.trans after
      exact ⟨⟨.success, p.length⟩, rfl, List.mem_cons_self, short, fun _ => nofun⟩
  case slave =>
    intro p s t idle call
    rcases exec_adapterSlave_cases p idle with ⟨k, -, after⟩ | ⟨e, -, -, after⟩ | ⟨e, d, -, -, after⟩
    · cases call.symm.trans after
      exact ⟨⟨.invalidSlaveEvent, 0⟩, rfl, by decide, rfl⟩
    · cases call.symm.trans after
      exact ⟨⟨.invalidEventType, 0⟩, rfl, by decide, rfl⟩
    · cases call.symm.trans after
      exact ⟨⟨.success, 0⟩, rfl, by decide, rfl⟩

end Sys2Proof.Machine
end

section
/-! The reserved error kinds, 60_exceptions.md R203: no operation raises one, and an adapter call leaves no response. -/

namespace Sys2Proof.Machine

/-- R203: the kinds whose codes are reserved. -/
def ErrorKind.isReserved : ErrorKind → Bool
  | .invalidMidiData .. => true
  | .incompleteFrame => true
  | _ => false

/-- The outcome is a result or an error of a kind that is not reserved. -/
def raisesNoReserved {α : Type} : Except ErrorKind α → Prop
  | .ok _ => True
  | .error k => k.isReserved = false

theorem raisesNoReserved_ok {α : Type} (a : α) : raisesNoReserved (.ok a) := trivial

theorem raisesNoReserved_map {α β : Type} (f : α → β) {o : Except ErrorKind α} (h : raisesNoReserved o) :
    raisesNoReserved (o.map f) := by
  cases o with
  | ok a => exact raisesNoReserved_ok (f a)
  | error k => exact h

theorem isReserved_eq_false_of_responseOf_eq_err {o : Except ErrorKind Result} {k : ErrorKind} (h : raisesNoReserved o)
    (err : responseOf o = .err k) : k.isReserved = false := by
  cases o with
  | ok r => cases err
  | error k' =>
    cases err
    exact h

/-! ## The operations that can fail -/

theorem raisesNoReserved_hdrParse (buf : List Byte) : raisesNoReserved (hdrParse buf) := by
  cases buf with
  | nil => rfl
  | cons b rest => exact raisesNoReserved_ok (headerOfByte b)

/-- Only the two length errors of R110's step 1. -/
theorem raisesNoReserved_midiParse (buf : List Byte) (len : Nat) : raisesNoReserved (midiParse buf len) := by
  rcases midiParse_cases buf len with ⟨-, outcome⟩ | ⟨-, -, -, outcome⟩ | ⟨_, outcome⟩
  · rw [outcome]
    rfl
  · rw [outcome]
    rfl
  · rw [outcome]
    exact raisesNoReserved_ok _

theorem raisesNoReserved_masterFlow (e : MidiEvent) : raisesNoReserved (masterFlow e) := by
  cases e with
  | other bytes => rfl
  | mtcQuarter | mtcFull | mmcStop | mmcPlay | mmcLocate => exact raisesNoReserved_ok _

/-- R184: whatever fails inside, the flow raises `InvalidSlaveEvent`. -/
theorem raisesNoReserved_slaveFlow (p : List Byte) : raisesNoReserved (slaveFlow p) := by
  rcases Nat.lt_or_ge p.length 3 with short | long
  · rw [slaveFlow_of_short short]
    rfl
  · obtain ⟨b, rest, rfl⟩ := List.exists_cons_of_length_pos (Nat.zero_lt_of_lt long)
    rw [slaveFlow_cons b (Nat.le_of_succ_le_succ long)]
    cases midiParse rest (b.toNat % 16) with
    | ok e => exact raisesNoReserved_ok e
    | error k => rfl

/-- R170: each check of the pass raises `InvalidFrameType` or `InvalidValue`. -/
theorem isReserved_eq_false_of_quarterFrameScan {i : Nat} {qs : List MtcQuarterFrame} {k : ErrorKind}
    (h : quarterFrameScan i qs = some k) : k.isReserved = false := by
  induction qs generalizing i with
  | nil => cases h
  | cons q qs ih =>
    rw [quarterFrameScan] at h
    split_ifs at h
    · cases h
      rfl
    · cases h
      rfl
    · exact ih h

theorem raisesNoReserved_qfToSmpte (q : QuarterFrameArray) : raisesNoReserved (qfToSmpte q) := by
  cases scan : quarterFrameScan 0 (quarterFrameList q) with
  | some k =>
    rw [qfToSmpte_of_scan_some scan]
    exact isReserved_eq_false_of_quarterFrameScan scan
  | none =>
    rw [qfToSmpte_of_scan_none scan]
    split_ifs
    · exact raisesNoReserved_ok _
    · rfl

/-! ## Every instruction -/

/-- Every row that is no adapter call answers with an outcome that raises no reserved kind. -/
theorem exec_operation_raisesNoReserved {i : Instr} (h : isCall i = false) :
    ∃ o : Except ErrorKind Result, raisesNoReserved o ∧ ∀ s : State, exec i s = .next (s.complete o) := by
  cases i with
  | adapterMaster | adapterSlave => cases h
  | hdrNew | hdrSerialize | midiBuild | usToSmpte | smpteToUs | smpteToQf =>
    exact ⟨.ok _, raisesNoReserved_ok _, fun _ => rfl⟩
  | msgMtcQuarter | msgMtcFull | msgMmcStop | msgMmcPlay | msgMmcLocate | msgOther =>
    exact ⟨.ok _, raisesNoReserved_ok _, fun _ => rfl⟩
  | reservedOpcode => exact ⟨.error .refused, rfl, fun _ => rfl⟩
  | hdrParse buf => exact ⟨_, raisesNoReserved_map _ (raisesNoReserved_hdrParse buf), fun _ => rfl⟩
  | payloadHeader => exact ⟨_, raisesNoReserved_map _ (raisesNoReserved_hdrParse _), fun _ => rfl⟩
  | midiParse buf len => exact ⟨_, raisesNoReserved_map _ (raisesNoReserved_midiParse buf len), fun _ => rfl⟩
  | qfToSmpte q => exact ⟨_, raisesNoReserved_map _ (raisesNoReserved_qfToSmpte q), fun _ => rfl⟩
  | masterFlow e => exact ⟨_, raisesNoReserved_map _ (raisesNoReserved_masterFlow e), fun _ => rfl⟩
  | slaveFlow p => exact ⟨_, raisesNoReserved_map _ (raisesNoReserved_slaveFlow p), fun _ => rfl⟩
  | netsyncPayload => exact ⟨_, raisesNoReserved_map _ (raisesNoReserved_slaveFlow _), fun _ => rfl⟩

/-- R234: a call made while BUSY = 1 is held and changes nothing. -/
theorem exec_call_of_busy {i : Instr} {s : State} (call : isCall i = true) (busy : s.busy = true) :
    exec i s = .next s := by
  cases i with
  | adapterMaster d cap => exact if_pos busy
  | adapterSlave p => exact if_pos busy
  | _ => cases call

/-- The adapter takes the response of the request it issued (R32), so a call leaves RSP empty. -/
theorem rsp_eq_none_of_exec_call {i : Instr} {s t : State} (call : isCall i = true) (empty : s.rsp = none)
    (h : exec i s = .next t) : t.rsp = none := by
  cases mode : s.busy with
  | true =>
    cases h.symm.trans (exec_call_of_busy call mode)
    exact empty
  | false =>
    cases i with
    | adapterMaster d cap =>
      rcases exec_adapterMaster_cases d cap mode with ⟨-, after⟩ | ⟨e, p, -, -, -, ⟨-, after⟩ | ⟨-, after⟩⟩
      · cases h.symm.trans after
        exact empty
      · cases h.symm.trans after
        rfl
      · cases h.symm.trans after
        rfl
    | adapterSlave p =>
      rcases exec_adapterSlave_cases p mode with ⟨k, -, after⟩ | ⟨e, -, -, after⟩ | ⟨e, d, -, -, after⟩
      all_goals
        cases h.symm.trans after
        rfl
    | _ => cases call

/-- Whatever error an instruction answers from a state without a response, its kind is not reserved. -/
theorem isReserved_eq_false_of_exec_rsp {i : Instr} {s t : State} {k : ErrorKind} (empty : s.rsp = none)
    (h : exec i s = .next t) (err : t.rsp = some (.err k)) : k.isReserved = false := by
  cases kind : isCall i with
  | true => cases (rsp_eq_none_of_exec_call kind empty h).symm.trans err
  | false =>
    obtain ⟨o, noReserved, answer⟩ := exec_operation_raisesNoReserved kind
    cases h.symm.trans (answer s)
    exact isReserved_eq_false_of_responseOf_eq_err noReserved (Option.some.inj err)

/-- Settles O41: an operation's outcome raises no reserved kind, and a call leaves RSP as empty as it was. -/
theorem reservedErrorsAreNeverProduced : Obligations.ReservedErrorsAreNeverProduced := by
  intro i s t h
  constructor
  · intro incomplete
    cases isReserved_eq_false_of_exec_rsp rfl h incomplete
  · intro position byte invalid
    cases isReserved_eq_false_of_exec_rsp rfl h invalid

end Sys2Proof.Machine
end

section
/-! Round trips, 41_midi_parse.md R126 and 44_netsync_flow.md R185: what the parser reads from a built message, and the
master's payload as the slave reads it. -/

namespace Sys2Proof.Machine

/-! ## Build, then parse (R126) -/

theorem midiParse_eq_ok_iff {buf : List Byte} {len : Nat} {e : MidiEvent} (s : State) :
    midiParse buf len = .ok e ↔ exec (.midiParse buf len) s = .next (answered s (.ok (.event e))) := by
  rw [exec_midiParse]
  constructor
  case mp =>
    intro h
    rw [h]
    rfl
  case mpr =>
    intro h
    exact responseOf_map_event_eq_ok (Option.some.inj (congrArg State.rsp (Host.Outcome.next.inj h)))

theorem and_lowNibble_toNat (b : Byte) : (b &&& 0x0F).toNat = b.toNat % 16 := Nat.and_two_pow_sub_one_eq_mod b.toNat 4

theorem and_lowNibble_eq_self_iff (b : Byte) : b &&& 0x0F = b ↔ b.toNat ≤ 15 := by
  rw [← BitVec.toNat_inj, and_lowNibble_toNat]
  omega

/-- R125: what begins as none of the four layouts, or ends before its length, is read whole. -/
theorem decodeChecked_unrecognised {b0 b1 b2 last : Byte} {body : List Byte}
    (notLocate : ¬([0x06, 0x44, 0x06, 0x01] <+: body ∧ 9 ≤ body.length))
    (notFull : ¬([0x01, 0x01] <+: body ∧ 6 ≤ body.length))
    (notStop : ¬[0x06, 0x01] <+: body) (notPlay : ¬[0x06, 0x02] <+: body) :
    decodeChecked (b0 :: b1 :: b2 :: (body ++ [last])) = .other (b0 :: b1 :: b2 :: (body ++ [last])) :=
  decodeChecked_other (fun h => notLocate (prefix_of_isLocate h)) (fun h => notFull (prefix_of_isFull h))
    (fun h => notStop (prefix_of_isStop h)) (fun h => notPlay (prefix_of_isPlay h))

theorem idxOf_append_cons {v : Byte} {pre : List Byte} (post : List Byte) (h : v ∉ pre) :
    (pre ++ v :: post).idxOf v = pre.length := by
  rw [List.idxOf_append_of_notMem h, List.idxOf_cons_self, Nat.add_zero]

/-- R114: a field F7 ends the message there. If no shorter run of fields makes `ids` a known layout, the message is `Other`
up to that field. -/
theorem midiParse_cut_at_field {ids fields tail : List Byte} {len : Nat} (clean : 0xF7 ∉ ids) (hm : 0xF7 ∈ fields)
    (one : 1 ≤ len) (le : len ≤ (0xF0 :: 0x7F :: 0x7F :: (ids ++ (fields ++ tail)) : List Byte).length)
    (unknown : ∀ pre : List Byte, pre.length < fields.length →
      decodeChecked (0xF0 :: 0x7F :: 0x7F :: (ids ++ pre ++ [0xF7])) =
        .other (0xF0 :: 0x7F :: 0x7F :: (ids ++ pre ++ [0xF7]))) :
    midiParse (0xF0 :: 0x7F :: 0x7F :: (ids ++ (fields ++ tail))) len =
      .ok (.other (0xF0 :: 0x7F :: 0x7F :: (ids ++ fields.take (fields.idxOf 0xF7) ++ [0xF7]))) := by
  obtain ⟨pre, post, rfl, hn⟩ := List.eq_append_cons_of_mem hm
  have taken : (pre ++ 0xF7 :: post).take ((pre ++ 0xF7 :: post).idxOf 0xF7) = pre := by
    rw [idxOf_append_cons post hn, List.take_left]
  have framed : ids ++ (pre ++ 0xF7 :: post ++ tail) = (ids ++ pre) ++ 0xF7 :: (post ++ tail) := by simp
  rw [taken]
  rw [framed] at le ⊢
  rw [midiParse_eq_ok_iff State.reset]
  exact exec_midiParse_framed State.reset (fun h => (List.mem_append.mp h).elim clean hn) one le (unknown pre (by simp))

/-- R126 (a): the nibbles that are kept are the low ones. -/
theorem midiParse_build_quarter (t v : Byte) :
    midiParse (midiBuild (.mtcQuarter t v)) 2 = .ok (.mtcQuarter (t &&& 0x0F) (v &&& 0x0F)) := by
  have type : widenNibble (highNibble (quarterDataByte t v)) = t &&& 0x0F := by
    apply BitVec.eq_of_toNat_eq
    rw [widenNibble_toNat, highNibble_toNat, quarterDataByte_toNat, and_lowNibble_toNat]
    omega
  have value : widenNibble (lowNibble (quarterDataByte t v)) = v &&& 0x0F := by
    apply BitVec.eq_of_toNat_eq
    rw [widenNibble_toNat, lowNibble_toNat, quarterDataByte_toNat, and_lowNibble_toNat]
    omega
  have fits : 1 ≤ 2 ∧ 2 ≤ (midiBuild (.mtcQuarter t v)).length := ⟨by decide, Nat.le_refl 2⟩
  have read := decodeMessage_quarter (quarterDataByte t v) [] (Nat.le_refl 2) fits
  rw [midiParse_of_le fits, ← type, ← value]
  exact congrArg (fun m => Except.ok (eventOfMessage m)) read

/-- R126 (b): a field F7 ends the slice before it has a full frame's length. -/
theorem midiParse_build_full (h m sec f : Byte) :
    midiParse (midiBuild (.mtcFull h m sec f)) 10 = .ok (roundTripEvent (.mtcFull h m sec f)) := by
  by_cases hm : 0xF7 ∈ [h, m, sec, f]
  case neg =>
    rw [midiParse_eq_ok_iff State.reset, roundTripEvent, if_neg (by simpa using hm)]
    exact fullFrameDecode h m sec f [] [] 10 State.reset hm (by decide) (Nat.le_refl 10)
  case pos =>
    rw [roundTripEvent, if_pos (by simpa using hm)]
    refine midiParse_cut_at_field (ids := [0x01, 0x01]) (tail := [0xF7]) (by decide) hm (by decide) (Nat.le_refl 10) ?_
    exact fun pre short => decodeChecked_unrecognised (by simp) (by simp at short ⊢; omega) (by simp) (by simp)

/-- R126 (c): the same for a Locate, whose built subframe is 0. -/
theorem midiParse_build_locate (h m sec f u : Byte) :
    midiParse (midiBuild (.mmcLocate h m sec f u)) 13 = .ok (roundTripEvent (.mmcLocate h m sec f u)) := by
  by_cases hm : 0xF7 ∈ [h, m, sec, f]
  case neg =>
    rw [midiParse_eq_ok_iff State.reset, roundTripEvent, if_neg (by simpa using hm)]
    exact locateDecode h m sec f 0 [] [] 13 State.reset (by simpa using hm) (by decide) (Nat.le_refl 13)
  case pos =>
    rw [roundTripEvent, if_pos (by simpa using hm)]
    refine midiParse_cut_at_field (ids := [0x06, 0x44, 0x06, 0x01]) (tail := [0x00, 0xF7]) (by decide) hm (by decide)
      (Nat.le_refl 13) ?_
    exact fun pre short => decodeChecked_unrecognised (by simp at short ⊢; omega) (by simp) (by simp) (by simp)

/-- R126: at its whole length a built message parses to the round-trip event. -/
theorem midiParse_midiBuild {e : MidiEvent} {n : Nat} (h : fixedLength e = some n) :
    midiParse (midiBuild e) n = .ok (roundTripEvent e) := by
  cases e with
  | other => cases h
  | mtcQuarter t v =>
    cases h
    exact midiParse_build_quarter t v
  | mtcFull hour m sec f =>
    cases h
    exact midiParse_build_full hour m sec f
  | mmcLocate hour m sec f u =>
    cases h
    exact midiParse_build_locate hour m sec f u
  | mmcStop | mmcPlay =>
    cases h
    rfl

theorem roundTripEvent_eq_self_iff (e : MidiEvent) : roundTripEvent e = e ↔ roundTrips e := by
  cases e with
  | mtcQuarter t v => simp only [roundTripEvent, roundTrips, MidiEvent.mtcQuarter.injEq, and_lowNibble_eq_self_iff]
  | mtcFull h m sec f =>
    rw [roundTripEvent, roundTrips]
    split_ifs with cut
    · exact iff_of_false nofun fun whole => whole (by simpa using cut)
    · exact iff_of_true rfl (by simpa using cut)
  | mmcLocate h m sec f u =>
    rw [roundTripEvent, roundTrips]
    split_ifs with cut
    · exact iff_of_false nofun fun whole => whole.1 (by simpa using cut)
    · have whole : 0xF7 ∉ [h, m, sec, f] := by simpa using cut
      simp only [MidiEvent.mmcLocate.injEq, true_and, whole, not_false_eq_true, eq_comm (a := u)]
  | mmcStop | mmcPlay | other => exact iff_of_true rfl trivial

theorem exists_fixedLength {e : MidiEvent} (h : isOther e = false) : ∃ n, fixedLength e = some n := by
  cases e with
  | other => cases h
  | mtcQuarter | mtcFull | mmcStop | mmcPlay | mmcLocate => exact ⟨_, rfl⟩

/-- Settles O16: each variant's built bytes have a layout the decoder knows, cut short where a field is F7. -/
theorem buildThenParseRoundTrip : Obligations.BuildThenParseRoundTrip := by
  intro e s s' h
  obtain ⟨n, len⟩ := exists_fixedLength h
  refine ⟨midiBuild e, exec_midiBuild e s, ?_, roundTripEvent_eq_self_iff e⟩
  rw [length_midiBuild len]
  exact (midiParse_eq_ok_iff s').mp (midiParse_midiBuild len)

/-! ## Master, then slave (R185) -/

/-- R183 on R180's payload: the header byte is the message's own length. -/
theorem slaveFlow_masterPayload {e : MidiEvent} {n : Nat} (h : fixedLength e = some n) :
    slaveFlow (BitVec.ofNat 8 n :: midiBuild e) = .ok (roundTripEvent e) := by
  have two : 2 ≤ (midiBuild e).length := by
    cases e with
    | other => cases h
    | mtcQuarter | mtcFull | mmcStop | mmcPlay | mmcLocate => simp [midiBuild]
  have len : (BitVec.ofNat 8 n).toNat % 16 = n := by
    have lt := fixedLength_lt h
    rw [BitVec.toNat_ofNat]
    omega
  rw [slaveFlow_cons _ two, len, midiParse_midiBuild h]
  rfl

/-- Settles O32: both ways parse the built message at its own length, the slave taking that from the header byte. -/
theorem masterThenSlaveRoundTrip : Obligations.MasterThenSlaveRoundTrip := by
  intro e s h
  obtain ⟨n, len⟩ := exists_fixedLength h
  obtain ⟨bytes, built, parsed, -⟩ := buildThenParseRoundTrip e s s h
  exact ⟨_, bytes, exec_masterFlow_of_fixedLength s len, built, parsed,
    exec_slaveFlow_of_ok s (slaveFlow_masterPayload len)⟩

end Sys2Proof.Machine
end

section
/-! What the parser's decoder can read, 41_midi_parse.md R110 to R125, said once for every buffer; which messages are
`Other` of all of themselves (30_encoding.md R86); and what follows for MIDI_PARSE and its inverse (R87, R128, R147). -/

namespace Sys2Proof.Machine

/-! ## A framed SysEx -/

/-- R114, R115: what follows 0xF0 in a SysEx that passes the check. -/
def Framed (rest : List Byte) : Prop :=
  ∃ body post : List Byte, 0xF7 ∉ body ∧ rest = 0x7F :: 0x7F :: (body ++ 0xF7 :: post)

theorem decodeMessage_framed {body : List Byte} (post : List Byte) {len : Nat} (hb : 0xF7 ∉ body)
    (h : 1 ≤ len ∧ len ≤ (0xF0 :: 0x7F :: 0x7F :: (body ++ 0xF7 :: post) : List Byte).length) :
    decodeMessage (0xF0 :: 0x7F :: 0x7F :: (body ++ 0xF7 :: post)) len h =
      decodeChecked (0xF0 :: 0x7F :: 0x7F :: (body ++ [0xF7])) := by
  rw [decodeMessage_sysex, if_pos (sysexOk_commandSlice_iff.mpr ⟨body, post, hb, rfl⟩), commandSlice_framed post len hb]

theorem decodeMessage_unframed {rest : List Byte} {len : Nat} (hr : ¬Framed rest)
    (h : 1 ≤ len ∧ len ≤ (0xF0 :: rest).length) :
    decodeMessage (0xF0 :: rest) len h = .other ((0xF0 :: rest).take len) := by
  rw [decodeMessage_sysex, if_neg fun ok => hr (sysexOk_commandSlice_iff.mp ok)]

/-- R86 states the four SysEx rows as the decoder's four predicates. -/
theorem sysexRecognised_iff {s : List Byte} :
    sysexRecognised s = true ↔ IsLocate s ∨ IsFull s ∨ IsStop s ∨ IsPlay s := by
  simp only [sysexRecognised, Bool.or_eq_true, Bool.and_eq_true, decide_eq_true_eq, beq_iff_eq, and_assoc, or_assoc,
    and_or_left]
  rfl

theorem decodeChecked_of_not_recognised {s : List Byte} (h : sysexRecognised s = false) :
    decodeChecked s = .other s := by
  have none : ¬(IsLocate s ∨ IsFull s ∨ IsStop s ∨ IsPlay s) := fun known =>
    Bool.false_ne_true (h.symm.trans (sysexRecognised_iff.mpr known))
  simp only [not_or] at none
  obtain ⟨notLocate, notFull, notStop, notPlay⟩ := none
  exact decodeChecked_other notLocate notFull notStop notPlay

/-- R120 to R125: what a checked SysEx means by what stands between its F0 7F 7F and its first F7. -/
inductive ReadsChecked : List Byte → WireMessage → Prop where
  | locate (h m sec f u : Byte) (tail : List Byte) :
    ReadsChecked (0x06 :: 0x44 :: 0x06 :: 0x01 :: h :: m :: sec :: f :: u :: tail) (.mmcLocate h m sec f u)
  | full (h m sec f : Byte) (tail : List Byte) :
    ReadsChecked (0x01 :: 0x01 :: h :: m :: sec :: f :: tail) (.mtcFull h m sec f)
  | stop (tail : List Byte) : ReadsChecked (0x06 :: 0x01 :: tail) .mmcStop
  | play (tail : List Byte) : ReadsChecked (0x06 :: 0x02 :: tail) .mmcPlay
  | other {body : List Byte} (unknown : sysexRecognised (0xF0 :: 0x7F :: 0x7F :: (body ++ [0xF7])) = false) :
    ReadsChecked body (.other (0xF0 :: 0x7F :: 0x7F :: (body ++ [0xF7])))

theorem readsChecked_decodeChecked (body : List Byte) :
    ReadsChecked body (decodeChecked (0xF0 :: 0x7F :: 0x7F :: (body ++ [0xF7]))) := by
  cases known : sysexRecognised (0xF0 :: 0x7F :: 0x7F :: (body ++ [0xF7])) with
  | false =>
    rw [decodeChecked_of_not_recognised known]
    exact .other known
  | true =>
    rcases sysexRecognised_iff.mp known with locate | full | stop | play
    · obtain ⟨⟨fields, rfl⟩, nine⟩ := prefix_of_isLocate locate
      obtain ⟨h, m, sec, f, u, tail, rfl⟩ : ∃ h m sec f u tail, fields = h :: m :: sec :: f :: u :: tail := by
        match fields, nine with
        | h :: m :: sec :: f :: u :: tail, _ => exact ⟨h, m, sec, f, u, tail, rfl⟩
      exact decodeChecked_locate 0xF0 0x7F 0x7F h m sec f u tail ▸ .locate h m sec f u tail
    · obtain ⟨⟨fields, rfl⟩, six⟩ := prefix_of_isFull full
      obtain ⟨h, m, sec, f, tail, rfl⟩ : ∃ h m sec f tail, fields = h :: m :: sec :: f :: tail := by
        match fields, six with
        | h :: m :: sec :: f :: tail, _ => exact ⟨h, m, sec, f, tail, rfl⟩
      exact decodeChecked_full 0xF0 0x7F 0x7F h m sec f tail ▸ .full h m sec f tail
    · obtain ⟨tail, rfl⟩ := prefix_of_isStop stop
      exact decodeChecked_stop 0xF0 0x7F 0x7F tail ▸ .stop tail
    · obtain ⟨tail, rfl⟩ := prefix_of_isPlay play
      exact decodeChecked_play 0xF0 0x7F 0x7F tail ▸ .play tail

/-! ## Any buffer -/

/-- R110: what a buffer means at a requested length, by its first byte and the check. -/
inductive Reads : List Byte → Nat → WireMessage → Prop where
  | quarter (data : Byte) (rest : List Byte) {len : Nat} (two : 2 ≤ len) :
    Reads (0xF1 :: data :: rest) len (.mtcQuarter (highNibble data) (lowNibble data))
  | quarterTruncated (rest : List Byte) : Reads (0xF1 :: rest) 1 (.other [0xF1])
  | nonSysex {b : Byte} (rest : List Byte) (len : Nat) (hq : b ≠ 0xF1) (hs : b ≠ 0xF0) :
    Reads (b :: rest) len (.other ((b :: rest).take len))
  | unframed {rest : List Byte} (len : Nat) (hr : ¬Framed rest) :
    Reads (0xF0 :: rest) len (.other ((0xF0 :: rest).take len))
  | framed {body : List Byte} (post : List Byte) (len : Nat) {w : WireMessage} (hb : 0xF7 ∉ body)
    (read : ReadsChecked body w) : Reads (0xF0 :: 0x7F :: 0x7F :: (body ++ 0xF7 :: post)) len w

theorem reads_decodeMessage {buf : List Byte} {len : Nat} (h : 1 ≤ len ∧ len ≤ buf.length) :
    Reads buf len (decodeMessage buf len h) := by
  match buf with
  | [] => exact absurd (h.1.trans h.2) (by decide)
  | first :: rest =>
    by_cases quarter : first = 0xF1
    · subst quarter
      by_cases one : len = 1
      · subst one
        rw [decodeMessage_quarter_truncated]
        exact .quarterTruncated rest
      · have two : 2 ≤ len := by omega
        match rest with
        | [] => exact absurd (two.trans h.2) (by decide)
        | data :: rest =>
          rw [decodeMessage_quarter data rest two]
          exact .quarter data rest two
    · by_cases sysex : first = 0xF0
      · subst sysex
        by_cases framed : Framed rest
        · obtain ⟨body, post, hb, rfl⟩ := framed
          rw [decodeMessage_framed post hb]
          exact .framed post len hb (readsChecked_decodeChecked body)
        · rw [decodeMessage_unframed framed]
          exact .unframed len framed
      · rw [decodeMessage_nonSysex rest quarter sysex]
        exact .nonSysex rest len quarter sysex

/-- R110: every event the parser answers is one that its buffer means. -/
theorem reads_of_midiParse {buf : List Byte} {len : Nat} {e : MidiEvent} (h : midiParse buf len = .ok e) :
    1 ≤ len ∧ ∃ w, Reads buf len w ∧ eventOfMessage w = e := by
  rcases midiParse_cases buf len with ⟨-, failed⟩ | ⟨-, -, -, failed⟩ | ⟨fits, parsed⟩
  · cases failed.symm.trans h
  · cases failed.symm.trans h
  · exact ⟨fits.1, _, reads_decodeMessage fits, Except.ok.inj (parsed.symm.trans h)⟩

/-- R114: no field of a decoded SysEx is F7, which would have ended its slice. -/
theorem not_mem_of_reads_full {buf : List Byte} {len : Nat} {h m sec f : Byte} (read : Reads buf len (.mtcFull h m sec f)) :
    0xF7 ∉ [h, m, sec, f] := by
  cases read with
  | framed post _ hb checked =>
    cases checked with
    | full _ _ _ _ tail => exact fun hm => hb (.tail _ (.tail _ (List.mem_append_left tail hm)))

theorem not_mem_of_reads_locate {buf : List Byte} {len : Nat} {h m sec f u : Byte}
    (read : Reads buf len (.mmcLocate h m sec f u)) : 0xF7 ∉ [h, m, sec, f, u] := by
  cases read with
  | framed post _ hb checked =>
    cases checked with
    | locate _ _ _ _ _ tail =>
      exact fun hm => hb (.tail _ (.tail _ (.tail _ (.tail _ (List.mem_append_left tail hm)))))

/-- No `Other` the parser answers is longer than its buffer. -/
theorem length_le_of_reads_other {buf stored : List Byte} {len : Nat} (read : Reads buf len (.other stored)) :
    stored.length ≤ buf.length := by
  cases read with
  | quarterTruncated rest => exact Nat.succ_le_succ (Nat.zero_le _)
  | nonSysex | unframed => exact List.length_take_le' _ _
  | framed post _ hb checked =>
    cases checked
    simp

/-! ## Messages that are `Other` of all of themselves (R86) -/

theorem otherMessage_nonSysex {b : Byte} (rest : List Byte) (hq : b ≠ 0xF1) (hs : b ≠ 0xF0) :
    otherMessage (b :: rest) = true := by
  rw [otherMessage, if_neg hq, if_pos hs]

theorem otherMessage_quarter (rest : List Byte) : otherMessage (0xF1 :: rest) = rest.isEmpty := rfl

/-- R86's check, by indices, passes on framed sequences only. -/
theorem framed_of_checked {rest : List Byte} (two : 2 ≤ (0xF0 :: rest : List Byte).idxOf 0xF7)
    (found : (0xF0 :: rest : List Byte).idxOf 0xF7 < (0xF0 :: rest).length)
    (mfr : (0xF0 :: rest)[1]? = some 0x7F) (device : (0xF0 :: rest)[2]? = some 0x7F) : Framed rest := by
  obtain ⟨pre, post, split, hn⟩ := List.eq_append_cons_of_mem (List.idxOf_lt_length_iff.mp found)
  rw [split, idxOf_append_cons post hn] at two
  match pre, two with
  | first :: second :: pre, _ =>
    obtain ⟨rfl, rfl⟩ := List.cons.inj split
    obtain rfl : second = 0x7F := Option.some.inj mfr
    match pre with
    | [] => simp at device
    | third :: body =>
      obtain rfl : third = 0x7F := Option.some.inj device
      exact ⟨body, post, fun hm => hn (.tail _ (.tail _ (.tail _ hm))), rfl⟩

theorem otherMessage_unframed {rest : List Byte} (h : ¬Framed rest) : otherMessage (0xF0 :: rest) = true := by
  simp only [otherMessage]
  rw [if_neg (by decide), if_neg (by decide), Bool.or_eq_true, Bool.not_eq_true', Bool.eq_false_iff]
  refine .inl fun checked => h ?_
  simp only [Bool.and_eq_true, decide_eq_true_eq, beq_iff_eq] at checked
  obtain ⟨⟨⟨two, found⟩, mfr⟩, device⟩ := checked
  exact framed_of_checked two found mfr device

theorem otherMessage_framed {body : List Byte} (post : List Byte) (hb : 0xF7 ∉ body) :
    otherMessage (0xF0 :: 0x7F :: 0x7F :: (body ++ 0xF7 :: post)) =
      (post.isEmpty && !sysexRecognised (0xF0 :: 0x7F :: 0x7F :: (body ++ 0xF7 :: post))) := by
  have index : (0xF0 :: 0x7F :: 0x7F :: (body ++ 0xF7 :: post) : List Byte).idxOf 0xF7 = body.length + 3 :=
    idxOf_append_cons (pre := 0xF0 :: 0x7F :: 0x7F :: body) post (by simpa using hb)
  have whole : (body.length + 3 + 1 == (0xF0 :: 0x7F :: 0x7F :: (body ++ 0xF7 :: post) : List Byte).length) = post.isEmpty := by
    cases post <;> simp
  simp only [otherMessage, index, whole]
  simp

/-- R125, R114: the bytes of every `Other` that the parser reads are such a message. -/
theorem otherMessage_of_reads {buf stored : List Byte} {len : Nat} (one : 1 ≤ len) (h : Reads buf len (.other stored)) :
    otherMessage stored = true := by
  obtain ⟨n, rfl⟩ := Nat.exists_eq_add_of_le' one
  cases h with
  | quarterTruncated => rfl
  | nonSysex rest _ hq hs => exact otherMessage_nonSysex _ hq hs
  | @unframed rest _ hr =>
    refine otherMessage_unframed fun ⟨body, post, hb, cut⟩ => hr ⟨body, post ++ rest.drop n, hb, ?_⟩
    calc rest = rest.take n ++ rest.drop n := (List.take_append_drop n rest).symm
      _ = 0x7F :: 0x7F :: (body ++ 0xF7 :: (post ++ rest.drop n)) := by rw [cut]; simp
  | framed post _ hb read =>
    cases read with
    | other unknown =>
      rw [otherMessage_framed [] hb, unknown]
      rfl

/-- Such a message decodes as `Other` of itself. -/
theorem decodeMessage_of_otherMessage {bytes : List Byte} (h : otherMessage bytes = true) :
    ∃ le : 1 ≤ bytes.length ∧ bytes.length ≤ bytes.length, decodeMessage bytes bytes.length le = .other bytes := by
  match bytes with
  | [] => cases h
  | first :: rest =>
    refine ⟨⟨Nat.succ_pos _, Nat.le_refl _⟩, ?_⟩
    by_cases quarter : first = 0xF1
    · subst quarter
      obtain rfl : rest = [] := List.isEmpty_iff.mp h
      rfl
    · by_cases sysex : first = 0xF0
      · subst sysex
        by_cases framed : Framed rest
        · obtain ⟨body, post, hb, rfl⟩ := framed
          rw [otherMessage_framed post hb, Bool.and_eq_true, Bool.not_eq_true', List.isEmpty_iff] at h
          obtain ⟨rfl, unknown⟩ := h
          rw [decodeMessage_framed [] hb, decodeChecked_of_not_recognised unknown]
        · rw [decodeMessage_unframed framed, List.take_length]
      · rw [decodeMessage_nonSysex rest quarter sysex, List.take_length]

/-! ## What follows for MIDI_PARSE -/

/-- Settles O6: step 1 of R110 has the only errors, and they are those of a length the buffer does not have. -/
theorem everyByteSequenceDecodes : Obligations.EveryByteSequenceDecodes := by
  intro buf len s
  constructor
  · exact fun one le => ⟨_, exec_midiParse_of_decodeMessage s (h := ⟨one, le⟩) rfl⟩
  · intro bad
    rcases midiParse_cases buf len with ⟨-, failed⟩ | ⟨-, -, -, failed⟩ | ⟨fits, -⟩
    · exact ⟨_, exec_midiParse_of_error s failed, .inl rfl⟩
    · exact ⟨_, exec_midiParse_of_error s failed, .inr rfl⟩
    · exact absurd fits bad

/-- Settles O15: with an F7 the slice is what stands before the first one and that byte, else the requested bytes. -/
theorem sliceEqualsRequestedBytesExactly : Obligations.SliceEqualsRequestedBytesExactly := by
  intro buf len one le
  rcases commandSlice_cases buf len with ⟨pre, post, rfl, hn, slice⟩ | ⟨hn, slice⟩
  case inr => exact iff_of_true slice (.inl hn)
  case inl =>
    have index : (pre ++ Config.sysexEnd :: post).idxOf 0xF7 = pre.length := idxOf_append_cons post hn
    have found : 0xF7 ∈ pre ++ Config.sysexEnd :: post := List.mem_append_right pre List.mem_cons_self
    rw [slice, requestedBytes, index, or_iff_right (not_not_intro found)]
    constructor
    case mp =>
      intro eq
      have lens := congrArg List.length eq
      rw [List.length_take_of_le le, List.length_append, List.length_singleton] at lens
      omega
    case mpr =>
      intro eq
      obtain rfl : len = pre.length + 1 := by omega
      simp [List.take_append]

theorem quarterDataByte_of_nibbles (data : Byte) :
    quarterDataByte (widenNibble (highNibble data)) (widenNibble (lowNibble data)) = data := by
  have lt := data.isLt
  apply BitVec.eq_of_toNat_eq
  rw [quarterDataByte_toNat, widenNibble_toNat, widenNibble_toNat, highNibble_toNat, lowNibble_toNat]
  omega

/-- A SysEx and its layout agree up to the layout's last field and both end with F7, so their lengths decide. -/
theorem layout_eq_slice_iff (fields tail : List Byte) :
    fields ++ [0xF7] = fields ++ (tail ++ [0xF7]) ↔
      (fields ++ (tail ++ [0xF7])).length = (fields ++ [0xF7]).length := by
  constructor
  · exact fun eq => eq ▸ rfl
  · intro len
    obtain rfl : tail = [] := List.eq_nil_of_length_eq_zero (by simpa using len)
    rfl

/-- Settles O17: a quarter frame's data byte is its two nibbles again; a SysEx row is built as its layout with nothing after
the fields, which the slice is exactly when it has the layout's length (and, for a Locate, subframe 0). -/
theorem parseThenBuild : Obligations.ParseThenBuild := by
  intro buf len e s h
  refine ⟨midiBuild e, exec_midiBuild e s, ?_⟩
  obtain ⟨-, w, read, rfl⟩ := reads_of_midiParse ((midiParse_eq_ok_iff s).mpr h)
  cases read with
  | quarter data rest two => exact congrArg (fun b => [0xF1, b]) (quarterDataByte_of_nibbles data)
  | quarterTruncated | nonSysex | unframed => rfl
  | framed post _ hb read =>
    have slice := commandSlice_framed post len hb
    cases read with
    | other => rfl
    | locate hour m sec f u tail =>
      simp only [eventOfMessage, slice]
      constructor
      · exact fun eq => eq ▸ ⟨rfl, rfl⟩
      · rintro ⟨lens, sub⟩
        obtain rfl : u = 0 := Option.some.inj sub
        exact (layout_eq_slice_iff [0xF0, 0x7F, 0x7F, 0x06, 0x44, 0x06, 0x01, hour, m, sec, f, 0x00] tail).mpr lens
    | full hour m sec f tail =>
      simp only [eventOfMessage, slice]
      exact layout_eq_slice_iff [0xF0, 0x7F, 0x7F, 0x01, 0x01, hour, m, sec, f] tail
    | stop tail =>
      simp only [eventOfMessage, slice]
      exact layout_eq_slice_iff [0xF0, 0x7F, 0x7F, 0x06, 0x01] tail
    | play tail =>
      simp only [eventOfMessage, slice]
      exact layout_eq_slice_iff [0xF0, 0x7F, 0x7F, 0x06, 0x02] tail

end Sys2Proof.Machine
end

section
/-! The encoding, 30_encoding.md R70 to R90: which operands are accepted for which instruction, and that the decoder and the
encoder are inverse on what is well formed. -/

namespace Sys2Proof.Machine

/-! ## Operand shapes, read backwards (R73) -/

theorem headerOf?_eq_some {flags len : Nat} {h : PayloadHeader} (read : headerOf? flags len = some h) :
    flags = h.flags.toNat ∧ len = h.len.toNat := by
  simp only [headerOf?, Option.bind_eq_some_iff, Option.map_eq_some_iff] at read
  obtain ⟨f, hf, l, hl, rfl⟩ := read
  exact ⟨fieldOf?_eq_some hf, fieldOf?_eq_some hl⟩

theorem eventOf?_eq_some {tag : Nat} {fields : List Nat} {e : MidiEvent} (read : eventOf? tag fields = some e) :
    operandOfEvent e = .event tag fields := by
  cases hb : bytesOf? fields with
  | none =>
    rw [eventOf?, hb] at read
    cases read
  | some bytes =>
    obtain rfl := bytesOf?_eq_some hb
    rw [eventOf?, hb, Option.bind_some] at read
    match tag, bytes, read with
    | 0, [t, v], read | 1, [h, m, s, f], read | 2, [], read | 3, [], read | 4, [h, m, s, f, u], read | 5, bytes, read =>
      cases read
      rfl

theorem timecodeOf?_eq_some {fields : List Nat} {f : MtcFullFrame} (read : timecodeOf? fields = some f) :
    operandOfTimecode f = .timecode fields := by
  simp only [timecodeOf?, Option.bind_eq_some_iff] at read
  obtain ⟨bytes, hb, four⟩ := read
  obtain rfl := bytesOf?_eq_some hb
  split at four <;> cases four
  rfl

theorem quarterFramesOf?_eq_some {frames : List (Nat × Nat)} {qs : List MtcQuarterFrame}
    (read : quarterFramesOf? frames = some qs) : frames = qs.map fun a => (a.frameType.toNat, a.value.toNat) := by
  induction frames generalizing qs with
  | nil =>
    cases read
    rfl
  | cons frame frames ih =>
    simp only [quarterFramesOf?, quarterFrameOf?, Option.bind_eq_some_iff, Option.map_eq_some_iff] at read
    obtain ⟨_, ⟨t, ht, v, hv, rfl⟩, qs', hqs, rfl⟩ := read
    rw [List.map_cons, ← ih hqs, ← fieldOf?_eq_some ht, ← fieldOf?_eq_some hv]

theorem quarterArrayOf?_eq_some {frames : List (Nat × Nat)} {q : QuarterFrameArray}
    (read : quarterArrayOf? frames = some q) : operandOfQuarterFrames q = .quarterFrames frames := by
  simp only [quarterArrayOf?, Option.bind_eq_some_iff] at read
  obtain ⟨qs, hqs, eight⟩ := read
  obtain rfl := quarterFramesOf?_eq_some hqs
  split at eight <;> cases eight
  rfl

/-! ## Requests -/

/-- The rows of R70's table. -/
def isOperation : Instr → Bool
  | .hdrNew .. | .hdrSerialize _ | .hdrParse _ | .midiParse .. | .midiBuild _ | .usToSmpte _ | .smpteToUs _
  | .smpteToQf _ | .qfToSmpte _ | .masterFlow _ | .slaveFlow _ => true
  | _ => false

/-- R73: accepted operands are those the encoder gives the instruction, and the instruction is one of R70's rows. -/
theorem operandsOf?_eq_some {op : Byte} {args : List Operand} {i : Instr} (read : operandsOf? op args = some i) :
    isOperation i = true ∧ encode i = .request ⟨op, args⟩ := by
  unfold operandsOf? at read
  -- The cases are the rows of the match on the operands, in its order; the tests in a row are on the opcode.
  split at read
  case h_1 =>
    split_ifs at read with h
    simp only [Option.bind_eq_some_iff, Option.map_eq_some_iff] at read
    obtain ⟨f, hf, l, hl, rfl⟩ := read
    rw [fieldOf?_eq_some hf, fieldOf?_eq_some hl, h]
    exact ⟨rfl, rfl⟩
  case h_2 =>
    split_ifs at read with h
    obtain ⟨header, hh, rfl⟩ := Option.map_eq_some_iff.mp read
    obtain ⟨rfl, rfl⟩ := headerOf?_eq_some hh
    rw [h]
    exact ⟨rfl, rfl⟩
  case h_3 =>
    split_ifs at read with h h'
    all_goals
      cases read
      subst op
      exact ⟨rfl, rfl⟩
  case h_4 =>
    split_ifs at read with h
    cases read
    rw [h]
    exact ⟨rfl, rfl⟩
  case h_5 =>
    split_ifs at read with h h'
    all_goals
      obtain ⟨e, he, rfl⟩ := Option.map_eq_some_iff.mp read
      subst op
      rw [← eventOf?_eq_some he]
      exact ⟨rfl, rfl⟩
  case h_6 =>
    split_ifs at read with h
    obtain ⟨us, hus, rfl⟩ := Option.map_eq_some_iff.mp read
    rw [fieldOf?_eq_some hus, h]
    exact ⟨rfl, rfl⟩
  case h_7 =>
    split_ifs at read with h h'
    all_goals
      obtain ⟨f, hf, rfl⟩ := Option.map_eq_some_iff.mp read
      subst op
      rw [← timecodeOf?_eq_some hf]
      exact ⟨rfl, rfl⟩
  case h_8 =>
    split_ifs at read with h
    obtain ⟨q, hq, rfl⟩ := Option.map_eq_some_iff.mp read
    rw [← quarterArrayOf?_eq_some hq, h]
    exact ⟨rfl, rfl⟩
  case h_9 => cases read

/-- What a request that decodes can be. -/
theorem decode_request_cases {r : Request} {i : Instr} (h : decode (.request r) = .ok i) :
    (r.op ∈ listedOpcodes ∧ isOperation i = true ∧ encode i = .request r ∧ i.fits = true) ∨
    (r.op ∉ listedOpcodes ∧ i = .reservedOpcode r.op) := by
  by_cases listed : r.op ∈ listedOpcodes
  · obtain ⟨read, -, fits⟩ := decode_eq_ok_iff.mp h
    rw [readEncoded, if_pos (List.contains_iff_mem.mpr listed)] at read
    split at read
    · rename_i shape
      obtain rfl := Except.ok.inj read
      obtain ⟨row, enc⟩ := operandsOf?_eq_some shape
      exact .inl ⟨listed, row, enc, fits⟩
    · cases read
  · rw [decode_request_of_not_listed r.args listed] at h
    exact .inr ⟨listed, (Except.ok.inj h).symm⟩

/-- Settles O45: a shape that is accepted is read back from the operands the encoder writes. -/
theorem acceptedRequestIsItsEncoding : Obligations.AcceptedRequestIsItsEncoding := by
  intro r i listed h
  rcases decode_request_cases h with ⟨-, -, enc, -⟩ | ⟨unlisted, -⟩
  · exact enc
  · exact absurd listed unlisted

/-! ## Wire messages -/

/-- R86: within `BUF_CAP`, a message is the row that all of it decodes to. -/
theorem decode_wire_of_decodeMessage {bytes : List Byte} {w : WireMessage}
    {le : 1 ≤ bytes.length ∧ bytes.length ≤ bytes.length} (d : decodeMessage bytes bytes.length le = w)
    (cap : bytes.length ≤ Config.bufCap) (fits : (messageInstr w).fits = true) :
    decode (.wire bytes) = .ok (messageInstr w) := by
  refine decode_eq_ok_iff.mpr ⟨?_, decide_eq_true cap, fits⟩
  rw [readEncoded, dif_pos le.1, d]

theorem readEncoded_wire_eq_ok {bytes : List Byte} {i : Instr} (h : readEncoded (.wire bytes) = .ok i) :
    ∃ le : 1 ≤ bytes.length ∧ bytes.length ≤ bytes.length, messageInstr (decodeMessage bytes bytes.length le) = i := by
  rw [readEncoded] at h
  split_ifs at h with one
  exact ⟨⟨one, Nat.le_refl _⟩, Except.ok.inj h⟩

/-- R10: every fixed-length message is within the bound. -/
theorem le_bufCap {n : Nat} (h : n ≤ 16) : n ≤ Config.bufCap := h.trans (Nat.le_add_left 16 _)

/-- Fields free of F7 keep the whole layout in its slice. -/
theorem decode_wire_framed {body : List Byte} {w : WireMessage} (short : body.length ≤ 12) (hb : 0xF7 ∉ body)
    (d : decodeChecked (0xF0 :: 0x7F :: 0x7F :: (body ++ [0xF7])) = w) (fits : (messageInstr w).fits = true) :
    decode (.wire (0xF0 :: 0x7F :: 0x7F :: (body ++ [0xF7]))) = .ok (messageInstr w) := by
  have le : 1 ≤ (0xF0 :: 0x7F :: 0x7F :: (body ++ [0xF7]) : List Byte).length := Nat.succ_pos _
  refine decode_wire_of_decodeMessage (le := ⟨le, Nat.le_refl _⟩) ((decodeMessage_framed [] hb _).trans d) (le_bufCap ?_) fits
  simp
  omega

/-! ## The obligations -/

theorem not_contains_iff {fields : List Byte} : (!fields.contains 0xF7) = true ↔ 0xF7 ∉ fields := by
  simp

/-- Settles O43: row by row, the operands are read back, a layout's fields stay in its slice, and an `Other` message decodes
as all of itself. -/
theorem decodeOfEncode : Obligations.DecodeOfEncode := by
  intro i wf
  obtain ⟨fits, row⟩ := Bool.and_eq_true _ _ ▸ wf
  cases i with
  | hdrNew flags len => exact decode_hdrNew flags len
  | hdrSerialize h => exact decode_hdrSerialize h
  | hdrParse buf => exact decode_hdrParse (of_decide_eq_true fits)
  | midiParse buf len =>
    simp only [Instr.fits, Bool.and_eq_true, fitsBufCap, decide_eq_true_eq] at fits
    exact (decode_midiParse buf len).trans (if_pos fits)
  | midiBuild e => exact decode_midiBuild fits
  | usToSmpte us => exact decode_usToSmpte us
  | smpteToUs f => exact decode_smpteToUs f
  | smpteToQf f => exact decode_smpteToQf f
  | qfToSmpte q => exact decode_qfToSmpte q
  | masterFlow e => exact decode_masterFlow fits
  | slaveFlow p => exact decode_slaveFlow (of_decide_eq_true fits)
  | reservedOpcode op => exact decode_request_of_not_listed [] (by simpa using row)
  | msgMtcQuarter t v =>
    have read : decodeMessage [0xF1, byteOfNibbles t v] 2 ⟨by decide, Nat.le_refl 2⟩ = .mtcQuarter t v := by
      rw [decodeMessage_quarter _ _ (Nat.le_refl 2), highNibble_byteOfNibbles, lowNibble_byteOfNibbles]
    exact decode_wire_of_decodeMessage read (le_bufCap (by simp)) rfl
  | msgMtcFull h m s f =>
    have fields := not_contains_iff.mp row
    exact decode_wire_framed (body := [0x01, 0x01, h, m, s, f]) (by simp) (by simpa using fields)
      (decodeChecked_full 0xF0 0x7F 0x7F h m s f []) rfl
  | msgMmcStop => exact decode_wire_framed (body := [0x06, 0x01]) (by decide) (by decide) rfl rfl
  | msgMmcPlay => exact decode_wire_framed (body := [0x06, 0x02]) (by decide) (by decide) rfl rfl
  | msgMmcLocate h m s f u =>
    have fields := not_contains_iff.mp row
    exact decode_wire_framed (body := [0x06, 0x44, 0x06, 0x01, h, m, s, f, u]) (by simp) (by simpa using fields)
      (decodeChecked_locate 0xF0 0x7F 0x7F h m s f u []) rfl
  | msgOther bytes =>
    obtain ⟨le, read⟩ := decodeMessage_of_otherMessage row
    exact decode_wire_of_decodeMessage read (of_decide_eq_true fits) fits
  | payloadHeader flags len => simp [encode, decode_eq_ok_iff, readEncoded, Encoded.fits, Instr.fits]
  | netsyncPayload h msg => simpa [encode, decode_eq_ok_iff, readEncoded, Encoded.fits] using fits
  | adapterMaster | adapterSlave => rfl

/-- R86: the row of a decoded message is one whose own bytes decode to it. -/
theorem wellFormed_of_reads {buf : List Byte} {len : Nat} {w : WireMessage} (one : 1 ≤ len) (read : Reads buf len w)
    (fits : (messageInstr w).fits = true) : (messageInstr w).wellFormed = true := by
  refine Bool.and_eq_true _ _ ▸ ⟨fits, ?_⟩
  cases w with
  | other => exact otherMessage_of_reads one read
  | mtcQuarter | mmcStop | mmcPlay => rfl
  | mtcFull h m s f => exact not_contains_iff.mpr (not_mem_of_reads_full read)
  | mmcLocate h m s f u => exact not_contains_iff.mpr (not_mem_of_reads_locate read)

theorem wellFormed_of_isOperation {i : Instr} (row : isOperation i = true) (fits : i.fits = true) : i.wellFormed = true := by
  refine Bool.and_eq_true _ _ ▸ ⟨fits, ?_⟩
  cases i with
  | hdrNew | hdrSerialize | hdrParse | midiParse | midiBuild | usToSmpte | smpteToUs | smpteToQf | qfToSmpte
  | masterFlow | slaveFlow => rfl
  | _ => cases row

/-- Settles O44: a request is one of R70's rows or reserved, a message is what `Reads` allows, and the other forms have
nothing to check but the bound, which `decode` tests. -/
theorem decodedIsWellFormed : Obligations.DecodedIsWellFormed := by
  intro w i h
  obtain ⟨read, -, fits⟩ := decode_eq_ok_iff.mp h
  cases w with
  | request r =>
    rcases decode_request_cases h with ⟨-, row, -, -⟩ | ⟨unlisted, rfl⟩
    · exact wellFormed_of_isOperation row fits
    · simpa [Instr.wellFormed, Instr.fits] using unlisted
  | wire bytes =>
    obtain ⟨le, rfl⟩ := readEncoded_wire_eq_ok read
    exact wellFormed_of_reads le.1 (reads_decodeMessage le) fits
  | header b =>
    cases read
    rfl
  | payload bytes =>
    cases bytes with
    | nil => cases read
    | cons b msg =>
      cases read
      exact Bool.and_eq_true _ _ ▸ ⟨fits, rfl⟩
  | call c =>
    cases c
    all_goals
      cases read
      rfl

/-- Settles O46: the words written out from the tables run through the decoder. -/
theorem specWordsDecode : Obligations.SpecWordsDecode := by
  unfold Obligations.SpecWordsDecode
  decide

end Sys2Proof.Machine
end

section
/-! Binary64, 00_scope.md R16: each operation is the exact quotient rounded to 53 significant bits, nearest, ties to even;
and a value that has 53 significant bits is not changed by rounding. -/

namespace Sys2Proof.Machine

/-- `binadeOf` is the exponent of its quotient, from above as well. -/
theorem lt_two_zpow_binadeOf {p q : ℕ} (hq : 0 < q) : (p : ℚ) / q < 2 ^ (binadeOf p q + 1) := by
  have q_pos : (0 : ℚ) < q := by exact_mod_cast hq
  unfold binadeOf
  generalize hlog : (Nat.log2 p : ℤ) - (Nat.log2 q : ℤ) = a
  dsimp only
  split_ifs with fits
  case pos =>
    have p_lt : (p : ℚ) < 2 ^ (Nat.log2 p + 1) := by exact_mod_cast Nat.lt_log2_self
    have q_ge : (2 ^ Nat.log2 q : ℚ) ≤ q := by exact_mod_cast Nat.log2_self_le hq.ne'
    calc (p : ℚ) / q < 2 ^ (Nat.log2 p + 1) / 2 ^ Nat.log2 q := div_lt_div₀ p_lt q_ge (by positivity) (by positivity)
      _ = 2 ^ (a + 1) := by
          rw [← zpow_natCast, ← zpow_natCast, ← zpow_sub₀ two_ne_zero]
          congr 1
          omega
  case neg =>
    have above : (p : ℚ) * 2 ^ (-a).toNat < q * 2 ^ a.toNat := by exact_mod_cast not_le.mp fits
    rw [sub_add_cancel, ← two_pow_toNat_div_two_pow_neg_toNat, div_lt_div_iff₀ q_pos (by positivity)]
    linarith

/-- R16: a remainder of exactly half the divisor goes to the even neighbour. -/
theorem roundNearestEven_even_of_tie {n d : ℕ} (hd : 0 < d)
    (tie : 2 * n = 2 * (roundNearestEven n d * d) + d ∨ 2 * (roundNearestEven n d * d) = 2 * n + d) :
    roundNearestEven n d % 2 = 0 := by
  have split_n := Nat.div_add_mod' n d
  have rem_lt := Nat.mod_lt n hd
  have rounded_up := Nat.add_one_mul (n / d) d
  simp only [roundNearestEven] at tie ⊢
  split_ifs at tie ⊢ <;> omega

theorem roundNearestEven_even_of_abs_eq_half {n d : ℕ} (hd : 0 < d)
    (tie : |(roundNearestEven n d : ℚ) - n / d| = 1 / 2) : roundNearestEven n d % 2 = 0 := by
  have d_pos : (0 : ℚ) < d := by exact_mod_cast hd
  apply roundNearestEven_even_of_tie hd
  rcases eq_or_eq_neg_of_abs_eq tie with above | below
  · right
    field_simp at above
    have cast : 2 * ((roundNearestEven n d : ℚ) * d) = 2 * n + d := by linarith
    exact_mod_cast cast
  · left
    field_simp at below
    have cast : 2 * (n : ℚ) = 2 * (roundNearestEven n d * d) + d := by linarith
    exact_mod_cast cast

/-- The rounding error in units of the last significant bit. -/
theorem f64OfRatio_sub_eq {p q : ℕ} (hp : p ≠ 0) (hq : 0 < q) :
    ∃ n d : ℕ, 0 < d ∧ (f64OfRatio p q).sig = roundNearestEven n d ∧
      f64Value (f64OfRatio p q) - p / q = (roundNearestEven n d - (n : ℚ) / d) * 2 ^ (f64OfRatio p q).exp := by
  simp only [f64OfRatio, if_neg hp, f64Value]
  refine ⟨_, _, Nat.mul_pos hq (Nat.two_pow_pos _), rfl, ?_⟩
  rw [sub_mul, scaledRatio_mul_two_zpow]

theorem roundedTo_f64OfRatio (p : ℕ) {q : ℕ} (hq : 0 < q) : RoundedTo ((p : ℚ) / q) (f64OfRatio p q) := by
  rcases Nat.eq_zero_or_pos p with rfl | hp
  case inl => constructor <;> simp [f64OfRatio, f64Value]
  case inr =>
    obtain ⟨n, d, hd, sig, error⟩ := f64OfRatio_sub_eq hp.ne' hq
    have unit_pos : (0 : ℚ) < 2 ^ (f64OfRatio p q).exp := by positivity
    have exponent : (f64OfRatio p q).exp = binadeOf p q - 52 := by simp only [f64OfRatio, if_neg hp.ne']
    constructor
    case zero =>
      have q_ne : (q : ℚ) ≠ 0 := by exact_mod_cast hq.ne'
      have p_ne : (p : ℚ) ≠ 0 := by exact_mod_cast hp.ne'
      exact fun zero => absurd zero (div_ne_zero p_ne q_ne)
    case binade =>
      intro _
      rw [exponent, sub_add_cancel, show binadeOf p q - 52 + 53 = binadeOf p q + 1 by ring]
      exact ⟨two_zpow_binadeOf_le hp hq, lt_two_zpow_binadeOf hq⟩
    case nearest =>
      intro _
      have round := abs_roundNearestEven_sub_le n hd
      rw [error, abs_mul, abs_of_pos unit_pos, div_eq_mul_one_div (2 ^ _ : ℚ), mul_comm]
      exact mul_le_mul_of_nonneg_left round unit_pos.le
    case tie_even =>
      intro _ tie
      rw [error, abs_mul, abs_of_pos unit_pos, div_eq_mul_one_div (2 ^ _ : ℚ), mul_comm] at tie
      exact sig ▸ roundNearestEven_even_of_abs_eq_half hd (mul_left_cancel₀ unit_pos.ne' tie)

theorem roundedTo_f64OfNat (n : ℕ) : RoundedTo n (f64OfNat n) := by
  simpa [f64OfNat] using roundedTo_f64OfRatio n Nat.one_pos

theorem roundedTo_f64Mul (a b : F64) : RoundedTo (f64Value a * f64Value b) (f64Mul a b) := by
  have rounded := roundedTo_f64OfRatio (f64Num a * f64Num b) (Nat.mul_pos (f64Den_pos a) (f64Den_pos b))
  rwa [Nat.cast_mul, Nat.cast_mul, mul_div_mul_comm, f64Num_div_f64Den, f64Num_div_f64Den] at rounded

theorem f64Value_nonneg (x : F64) : 0 ≤ f64Value x := mul_nonneg (Nat.cast_nonneg _) (by positivity)

theorem roundedTo_f64Div (a : F64) {b : F64} (hb : f64Value b ≠ 0) :
    RoundedTo (f64Value a / f64Value b) (f64Div a b) := by
  have divisor := f64Num_pos ((f64Value_nonneg b).lt_of_ne' hb)
  have rounded := roundedTo_f64OfRatio (f64Num a * f64Den b) (Nat.mul_pos (f64Den_pos a) divisor)
  rwa [Nat.cast_mul, Nat.cast_mul, mul_div_mul_comm, f64Num_div_f64Den, ← inv_div (f64Num b : ℚ), f64Num_div_f64Den,
    ← div_eq_mul_inv] at rounded

/-- The natural rounded to is more than a half above at most. -/
theorem lt_roundHalfAway_add_one (x : F64) : f64Value x + 1 / 2 < (roundHalfAway x : ℚ) + 1 := by
  have den : (0 : ℚ) < f64Den x := by exact_mod_cast f64Den_pos x
  have below : 2 * f64Num x + f64Den x < (roundHalfAway x + 1) * (2 * f64Den x) :=
    Nat.lt_mul_of_div_lt (Nat.lt_succ_self _) (Nat.mul_pos two_pos (f64Den_pos x))
  have cast : (2 * f64Num x + f64Den x : ℚ) < (roundHalfAway x + 1) * (2 * f64Den x) := by exact_mod_cast below
  calc f64Value x + 1 / 2 = (2 * f64Num x + f64Den x) / (2 * f64Den x) := by rw [← f64Num_div_f64Den]; field_simp
    _ < roundHalfAway x + 1 := (div_lt_iff₀ (by positivity)).mpr cast

/-- Settles O19: all three operations round one quotient, and R16's rounding is stated for that. -/
theorem binary64RoundsToNearestEven : Obligations.Binary64RoundsToNearestEven :=
  ⟨fun p _ hq => roundedTo_f64OfRatio p hq, roundedTo_f64OfNat, roundedTo_f64Mul, fun a _ hb => roundedTo_f64Div a hb,
    fun x => ⟨roundHalfAway_le x, lt_roundHalfAway_add_one x⟩⟩

/-- R16: at most a half of the last place away from a multiple of it, the rounded value is that multiple. -/
theorem RoundedTo.eq_of_representable {v : ℚ} {x : F64} (h : RoundedTo v x) {m : ℕ} {k : ℤ} (hm : m < 2 ^ 53)
    (hv : v = m * 2 ^ k) : f64Value x = v := by
  by_cases zero : v = 0
  case pos => rw [h.zero zero, zero]
  case neg =>
    have unit_pos : (0 : ℚ) < 2 ^ x.exp := by positivity
    have le : x.exp ≤ k := by
      have m_lt : (m : ℚ) < 2 ^ (53 : ℤ) := by exact_mod_cast hm
      have below : (2 : ℚ) ^ (x.exp + 52) < 2 ^ (53 + k) := by
        calc (2 : ℚ) ^ (x.exp + 52) ≤ m * 2 ^ k := hv ▸ (h.binade zero).1
          _ < 2 ^ (53 : ℤ) * 2 ^ k := mul_lt_mul_of_pos_right m_lt (by positivity)
          _ = 2 ^ (53 + k) := (zpow_add₀ two_ne_zero _ _).symm
      have := (zpow_lt_zpow_iff_right₀ (by norm_num : (1 : ℚ) < 2)).mp below
      omega
    obtain ⟨j, rfl⟩ := Int.le.dest le
    have places : v = (m * 2 ^ j : ℕ) * 2 ^ x.exp := by
      rw [hv, zpow_add₀ two_ne_zero, zpow_natCast]
      push_cast
      ring
    have near := h.nearest zero
    rw [places, f64Value, ← sub_mul, abs_mul, abs_of_pos unit_pos, div_eq_mul_one_div, mul_comm] at near
    have half := le_of_mul_le_mul_left near unit_pos
    have same : x.sig = m * 2 ^ j := by
      have lt : |(x.sig : ℤ) - (m * 2 ^ j : ℕ)| < 1 := by
        have : |(x.sig : ℚ) - (m * 2 ^ j : ℕ)| < 1 := half.trans_lt (by norm_num)
        exact_mod_cast this
      have := Int.abs_lt_one_iff.mp lt
      omega
    rw [places, f64Value, same]

theorem RoundedTo.eq_of_natCast {v : ℚ} {x : F64} (h : RoundedTo v x) {m : ℕ} (hm : m < 2 ^ 53) (hv : v = m) :
    f64Value x = m :=
  (h.eq_of_representable (k := 0) hm (by rw [hv, zpow_zero, mul_one])).trans hv

theorem roundHalfAway_eq {x : F64} {n : ℕ} (le : (n : ℚ) ≤ f64Value x + 1 / 2) (lt : f64Value x + 1 / 2 < n + 1) :
    roundHalfAway x = n := by
  have upper : (roundHalfAway x : ℚ) < n + 1 := (roundHalfAway_le x).trans_lt lt
  have lower : (n : ℚ) < roundHalfAway x + 1 := le.trans_lt (lt_roundHalfAway_add_one x)
  exact Nat.le_antisymm (Nat.lt_succ_iff.mp (by exact_mod_cast upper)) (Nat.lt_succ_iff.mp (by exact_mod_cast lower))

end Sys2Proof.Machine
end

section
/-! Microseconds and timecode, 43_timecode.md R151, R152, R161 and R162: the integer form of the frame number, its ties, and
the round trips between the two. -/

namespace Sys2Proof.Machine

/-! ## The integer form (R151) -/

/-- The frames before the last division, which R150 computes from left to right. -/
def scaledUs (us : Microseconds) : F64 := f64Div (f64Mul (f64OfNat us.toNat) (f64OfNat 30)) (f64OfNat 1)

theorem framenumOfUs_eq (us : Microseconds) :
    framenumOfUs us = roundHalfAway (f64Div (scaledUs us) (f64OfNat 1000000)) := rfl

/-- Within R151's bound the product has at most 53 bits, so nothing is rounded before the last division. -/
theorem f64Value_scaledUs {us : Microseconds} (h : us.toNat ≤ 300239975158033) :
    f64Value (scaledUs us) = (30 * us.toNat : ℕ) := by
  have converted : f64Value (f64OfNat us.toNat) = us.toNat :=
    (roundedTo_f64OfNat us.toNat).eq_of_natCast (by omega) rfl
  have product : f64Value (f64Mul (f64OfNat us.toNat) (f64OfNat 30)) = (30 * us.toNat : ℕ) :=
    (roundedTo_f64Mul _ _).eq_of_natCast (by omega) (by rw [converted, f64Value_thirty]; push_cast; ring)
  exact (roundedTo_f64Div _ (by rw [f64Value_one]; norm_num)).eq_of_natCast (by omega)
    (by rw [product, f64Value_one, div_one])

/-- Rounding a quotient below `2^53 / 10^6` errs by less than `10^-6`. -/
theorem abs_sub_lt_of_relative_error {y : ℚ} {m : ℕ} (bound : m ≤ 9007199254740990)
    (error : |y - m / 1000000| ≤ m / 1000000 / 2 ^ 53) : |y - m / 1000000| < 1 / 1000000 := by
  have cast : (m : ℚ) < 2 ^ 53 := by exact_mod_cast (show m < 2 ^ 53 by omega)
  refine error.trans_lt ?_
  rw [div_lt_iff₀ (by positivity), div_mul_eq_mul_div, one_mul]
  exact div_lt_div_of_pos_right cast (by positivity)

/-- R152: a tie is a binary64 value, so the division does not round it. -/
theorem RoundedTo.eq_of_tie {y : F64} {m n : ℕ} (bound : m < 2 ^ 53) (h : RoundedTo ((m : ℚ) / 1000000) y)
    (tie : m + 500000 = n * 1000000) : f64Value y = n - 1 / 2 := by
  have odd : (m : ℚ) / 1000000 = (2 * n - 1 : ℕ) * 2 ^ (-1 : ℤ) := by
    have cast : (m : ℚ) = (2 * n - 1 : ℕ) * 500000 := by
      have : m = (2 * n - 1) * 500000 := by omega
      exact_mod_cast this
    rw [cast, zpow_neg_one]
    ring
  rw [h.eq_of_representable (by omega) odd, div_eq_iff (by norm_num)]
  have cast : (m : ℚ) + 500000 = n * 1000000 := by exact_mod_cast tie
  linarith

/-- The exact quotient is a multiple of `10^-5`, so an error below `10^-6` could move only a tie across a half. -/
theorem roundHalfAway_of_relative_error {y : F64} {m : ℕ} (ten : 10 ∣ m) (bound : m ≤ 9007199254740990)
    (h : RoundedTo ((m : ℚ) / 1000000) y) (error : |f64Value y - m / 1000000| ≤ m / 1000000 / 2 ^ 53) :
    roundHalfAway y = (m + 500000) / 1000000 := by
  have close := abs_lt.mp (abs_sub_lt_of_relative_error bound error)
  obtain ⟨below, above⟩ := close
  generalize hn : (m + 500000) / 1000000 = n
  apply roundHalfAway_eq
  case lt =>
    have step : (m : ℚ) + 500010 ≤ (n + 1) * 1000000 := by
      exact_mod_cast (show m + 500010 ≤ (n + 1) * 1000000 by omega)
    linarith
  case le =>
    by_cases tie : m + 500000 = n * 1000000
    case pos => rw [h.eq_of_tie (by omega) tie, sub_add_cancel]
    case neg =>
      have step : (n : ℚ) * 1000000 + 10 ≤ m + 500000 := by
        exact_mod_cast (show n * 1000000 + 10 ≤ m + 500000 by omega)
      linarith
/-- R151: only the last division of R150 can round. -/
theorem framenumOfUs_eq_integer_form {us : Microseconds} (h : us.toNat ≤ 300239975158033) :
    framenumOfUs us = (30 * us.toNat + 500000) / 1000000 := by
  have rounded := roundedTo_f64Div (scaledUs us) (b := f64OfNat 1000000) (by rw [f64Value_million]; norm_num)
  have error := abs_f64Div_sub_le (scaledUs us) (b := f64OfNat 1000000) (by rw [f64Value_million]; norm_num)
  rw [f64Value_scaledUs h, f64Value_million] at rounded error
  rw [framenumOfUs_eq]
  exact roundHalfAway_of_relative_error (by omega) (by omega) rounded error

/-- Settles O21: below the bound by exactness up to the last division; above it the binary64 operations are run. -/
theorem usToSmpteIntegerForm : Obligations.UsToSmpteIntegerForm :=
  ⟨fun _ => framenumOfUs_eq_integer_form, by decide, by decide⟩

/-- R152: 3 divides the odd factor, since it does not divide 50000. -/
theorem exists_tie_index {n k : ℕ} (tie : 2 * (30 * n) = 1000000 * (2 * k + 1)) : ∃ j, n = 50000 + 100000 * j := by
  have thrice : 3 * n = 50000 * (2 * k + 1) := by linarith
  have coprime : Nat.Coprime 3 50000 := by norm_num
  obtain ⟨odd, split⟩ : 3 ∣ 2 * k + 1 := coprime.dvd_of_dvd_mul_left (Dvd.intro n thrice)
  rw [split] at thrice
  obtain ⟨j, rfl⟩ : ∃ j, odd = 2 * j + 1 := ⟨odd / 2, by clear tie thrice; omega⟩
  exact ⟨j, by linarith⟩

/-- Settles O22: three times a tie's microseconds are an odd multiple of 50000, and the integer form rounds the half up. -/
theorem tiesRoundUpWithinBound : Obligations.TiesRoundUpWithinBound := by
  intro us
  refine ⟨⟨?mp, ?mpr⟩, ?value⟩
  case mp => exact fun ⟨_, tie⟩ => exists_tie_index tie
  case mpr =>
    rintro ⟨j, tie⟩
    exact ⟨3 * j + 1, by omega⟩
  case value =>
    intro bound j tie
    rw [framenumOfUs_eq_integer_form bound]
    omega

/-! ## Frame numbers and their timecodes -/

theorem framenumOfTimecode_timecodeOfFramenum (n : ℕ) : framenumOfTimecode (timecodeOfFramenum n) = n % 2592000 := by
  rw [framenumOfTimecode, timecodeOfFramenum_frames, timecodeOfFramenum_seconds, timecodeOfFramenum_minutes,
    timecodeOfFramenum_hours]
  calc _ = n % 30 + 30 * (n / 30 % 60 + 60 * (n / 30 / 60 % 60 + 60 * (n / 30 / 60 / 60 % 24))) := by
        rw [Nat.div_div_eq_div_mul (n / 30) 60 60]
        ring
    _ = n % (30 * (60 * (60 * 24))) := by simp only [Nat.mod_mul]

theorem inRange_timecodeOfFramenum (n : ℕ) : InRange (timecodeOfFramenum n) := by
  rw [InRange, timecodeOfFramenum_frames, timecodeOfFramenum_seconds, timecodeOfFramenum_minutes, timecodeOfFramenum_hours]
  omega

theorem MtcFullFrame.ext_toNat {f g : MtcFullFrame} (hours : f.hours.toNat = g.hours.toNat)
    (minutes : f.minutes.toNat = g.minutes.toNat) (seconds : f.seconds.toNat = g.seconds.toNat)
    (frames : f.frames.toNat = g.frames.toNat) : f = g := by
  cases f
  cases g
  simp only [BitVec.toNat_inj] at hours minutes seconds frames
  simp only [hours, minutes, seconds, frames]

theorem timecodeOfFramenum_framenumOfTimecode {f : MtcFullFrame} (h : InRange f) :
    timecodeOfFramenum (framenumOfTimecode f) = f := by
  obtain ⟨frames, seconds, minutes, hours⟩ := h
  apply MtcFullFrame.ext_toNat
  case hours => rw [timecodeOfFramenum_hours, framenumOfTimecode]; omega
  case minutes => rw [timecodeOfFramenum_minutes, framenumOfTimecode]; omega
  case seconds => rw [timecodeOfFramenum_seconds, framenumOfTimecode]; omega
  case frames => rw [timecodeOfFramenum_frames, framenumOfTimecode]; omega

/-- R160: the largest field values, not only those in range. -/
theorem framenumOfTimecode_le (f : MtcFullFrame) : framenumOfTimecode f ≤ 28006905 := by
  have hours := f.hours.isLt
  have minutes := f.minutes.isLt
  have seconds := f.seconds.isLt
  have frames := f.frames.isLt
  unfold framenumOfTimecode
  omega

/-! ## The round trips -/

/-- Above R151's bound the frame number is still about its exact value, of which half is enough here. -/
theorem half_frames_lt_framenumOfUs (us : Microseconds) : (15 : ℚ) * us.toNat / 1000000 < framenumOfUs us + 1 := by
  have converted_ge := abs_f64OfNat_sub_le us.toNat
  have product_ge := abs_f64Mul_sub_le (f64OfNat us.toNat) (f64OfNat 30)
  have quotient_ge := abs_f64Div_sub_le (f64Mul (f64OfNat us.toNat) (f64OfNat 30)) (b := f64OfNat 1)
    (by rw [f64Value_one]; norm_num)
  have frames_ge := abs_f64Div_sub_le (scaledUs us) (b := f64OfNat 1000000) (by rw [f64Value_million]; norm_num)
  have round := lt_roundHalfAway_add_one (f64Div (scaledUs us) (f64OfNat 1000000))
  have us_nonneg : (0 : ℚ) ≤ us.toNat := Nat.cast_nonneg _
  rw [f64Value_thirty] at product_ge
  rw [f64Value_one, ← scaledUs] at quotient_ge
  rw [f64Value_million] at frames_ge
  rw [abs_sub_le_iff] at converted_ge product_ge quotient_ge frames_ge
  rw [framenumOfUs_eq]
  linarith

theorem le_framenumOfUs_of_day {us : Microseconds} (h : 86399983334 ≤ us.toNat) : 2592000 ≤ framenumOfUs us := by
  by_cases bound : us.toNat ≤ 300239975158033
  · rw [framenumOfUs_eq_integer_form bound]
    omega
  · have beyond : (300239975158033 : ℚ) ≤ us.toNat := by exact_mod_cast (not_le.mp bound).le
    have below := half_frames_lt_framenumOfUs us
    have day : (2592000 : ℚ) ≤ framenumOfUs us := by linarith
    exact_mod_cast day

/-- Settles O24: below 24 hours the frame number comes back whole; it is the nearest one, half a frame away at most, and the
way back cuts off less than a microsecond. At 24 hours the timecode is zero. -/
theorem microsecondRoundTripWithinOneFrame : Obligations.MicrosecondRoundTripWithinOneFrame := by
  refine ⟨?below, fun us => le_framenumOfUs_of_day, ?wrap⟩
  case below =>
    intro us s s' h
    have form := framenumOfUs_eq_integer_form (us := us) (by omega)
    have back := smpteToUs_toNat (timecodeOfFramenum (framenumOfUs us))
    rw [framenumOfTimecode_timecodeOfFramenum, form] at back
    refine ⟨_, _, exec_usToSmpte us s, exec_smpteToUs _ s', ?_⟩
    have day : (30 * us.toNat + 500000) / 1000000 < 2592000 := by omega
    rw [Nat.mod_eq_of_lt day] at back
    rw [form]
    omega
  case wrap =>
    intro s s'
    have form : framenumOfUs 86399983334 = 2592000 := framenumOfUs_eq_integer_form (by decide)
    have zero : smpteToUs (timecodeOfFramenum 2592000) = 0 := by decide
    refine ⟨_, exec_usToSmpte _ s, ?_⟩
    rw [form, exec_smpteToUs, zero]

/-- R162: less than one microsecond is cut off, far less than half a frame. -/
theorem framenumOfUs_smpteToUs (f : MtcFullFrame) : framenumOfUs (smpteToUs f) = framenumOfTimecode f := by
  have le := framenumOfTimecode_le f
  have us := smpteToUs_toNat f
  rw [framenumOfUs_eq_integer_form (by omega)]
  omega

/-- Settles O25: the frame number survives, and an in-range timecode is the one of its frame number. -/
theorem timecodeRoundTripThroughMicroseconds : Obligations.TimecodeRoundTripThroughMicroseconds := by
  intro f s s'
  refine ⟨_, timecodeOfFramenum (framenumOfTimecode f), exec_smpteToUs f s, ?_, timecodeOfFramenum_framenumOfTimecode,
    inRange_timecodeOfFramenum _, framenumOfTimecode_timecodeOfFramenum _⟩
  rw [exec_usToSmpte, framenumOfUs_smpteToUs]

/-! ## Through quarter frames (R171) -/

/-- R166's table passes R170's checks. -/
theorem smpteToQf_passes {f : MtcFullFrame} {i : ℕ} {a : MtcQuarterFrame}
    (h : (quarterFrameList (smpteToQf f))[i]? = some a) : a.frameType.toNat = i ∧ a.value.toNat ≤ 15 := by
  have frames := f.frames.isLt
  have seconds := f.seconds.isLt
  have minutes := f.minutes.isLt
  match i with
  | 0 | 1 | 2 | 3 | 4 | 5 | 6 | 7 =>
    cases h
    simp [smpteToQf]
    omega
  | n + 8 => cases h

/-- Settles O28: the nibbles of each field put it together again; of the hours only bits 4 to 0 are sent. -/
theorem timecodeRoundTripThroughQuarterFrames : Obligations.TimecodeRoundTripThroughQuarterFrames := by
  intro f s s'
  refine ⟨smpteToQf f, exec_smpteToQf f s, ?_⟩
  have read := qfToSmpteReassembles.2.2 (smpteToQf f) s' f.frames.toNat f.seconds.toNat f.minutes.toNat
    (f.hours.toNat % 32) 3 (fun i a => smpteToQf_passes) (by simp [smpteToQf]; omega) (by simp [smpteToQf]; omega)
    (by simp [smpteToQf]; omega) (by simp [smpteToQf]; omega) (by simp [smpteToQf]; omega)
  split_ifs with ok
  case pos =>
    obtain ⟨okFrames, okSeconds, okMinutes, okHours⟩ := ok
    rw [if_pos ⟨okFrames, okSeconds, okMinutes, okHours, rfl⟩] at read
    obtain ⟨g, frames, seconds, minutes, hours, run⟩ := read
    refine ⟨fun inRange => ?_, g, BitVec.eq_of_toNat_eq frames, BitVec.eq_of_toNat_eq seconds,
      BitVec.eq_of_toNat_eq minutes, hours, run⟩
    have whole : f.hours.toNat % 32 = f.hours.toNat := Nat.mod_eq_of_lt (by omega)
    exact MtcFullFrame.ext_toNat (hours.trans whole) minutes seconds frames ▸ run
  case neg =>
    rw [if_neg (by omega)] at read
    exact ⟨fun inRange => absurd inRange (by omega), read⟩

end Sys2Proof.Machine
end

section
/-! The interface, 10_state.md R32 and 70_reset_and_hazards.md R230 to R234: what a busy block answers does not depend on the
rest of the state, and how requests, resets and takings follow one another. -/

namespace Sys2Proof.Machine

/-! ## One step -/

theorem step_busy_of_ok {s : State} {r : Request} {i : Instr} (b : s.busy = true) (q : s.req = some r) (n : noResetNext s)
    (d : decode (.request r) = .ok i) : step s = exec i s := by
  rw [step_busy b q n, d]

theorem step_busy_of_error {s : State} {r : Request} {e : Reject} (b : s.busy = true) (q : s.req = some r)
    (n : noResetNext s) (d : decode (.request r) = .error e) : step s = .next (answered s (.err .refused)) := by
  rw [step_busy b q n, d]

theorem step_of_call_idle {s : State} {c : Call} {rest : List HostAction} {i : Instr} (b : s.busy = false)
    (h : s.host = .call c :: rest) (d : decode (.call c) = .ok i) : step s = exec i (s.withHost rest) := by
  simp [step, nextMove, h, b, d]

theorem step_of_no_action {s : State} (b : s.busy = false) (h : s.host = []) : step s = .next s := by
  simp [step, nextMove, h, b]

theorem State.takeResponse_of_some {s : State} {r : Response} (h : s.rsp = some r) :
    s.takeResponse = { s with rsp := none, taken := s.taken ++ [r] } := by
  rw [State.takeResponse, h]

theorem noResetNext_of_host {s : State} {a : HostAction} {rest : List HostAction} (h : s.host = a :: rest)
    (ha : a ≠ .reset) : noResetNext s := by
  intro rest' h'
  exact ha (List.cons.inj (h.symm.trans h')).1

theorem noResetNext_performing (r : Request) : noResetNext (performing r) := fun _ => nofun

/-- Settles O47: `nextMove` hands the step the request in flight, and the call of an idle block. -/
theorem stepRunsTheDecodedInstruction : Obligations.StepRunsTheDecodedInstruction :=
  ⟨fun _ _ _ b q n d => step_busy_of_ok b q n d, fun _ _ _ _ b h d => step_of_call_idle b h d⟩

/-- Settles O51: the idle step of each host action, and of none. -/
theorem hostActionsWhileIdle : Obligations.HostActionsWhileIdle := by
  intro s rest b
  refine ⟨fun r h => step_of_issue_idle b h, ?taken, ?nothing, step_of_no_action b⟩
  case taken =>
    intro r h q
    rw [step_of_take_idle b h, State.takeResponse_of_some (s := s.withHost rest) q]
    rfl
  case nothing =>
    intro h q
    rw [step_of_take_idle b h, State.takeResponse_eq_self (s := s.withHost rest) q]
    rfl

/-! ## The answer (R33) -/

theorem isCall_of_isOperation {i : Instr} (h : isOperation i = true) : isCall i = false := by
  cases i with
  | adapterMaster | adapterSlave => cases h
  | _ => rfl

theorem isCall_of_decode_request {r : Request} {i : Instr} (h : decode (.request r) = .ok i) : isCall i = false := by
  rcases decode_request_cases h with ⟨-, row, -, -⟩ | ⟨-, rfl⟩
  · exact isCall_of_isOperation row
  · rfl

/-- R33: a request has one answer, whatever the state of the block that performs it. -/
theorem exists_answer (r : Request) :
    ∃ resp : Response, ∀ s : State, s.busy = true → s.req = some r → noResetNext s →
      step s = .next (answered s resp) := by
  cases d : decode (.request r) with
  | ok i =>
    obtain ⟨resp, answers⟩ := exec_operation (isCall_of_decode_request d)
    exact ⟨resp, fun s b q n => (step_busy_of_ok b q n d).trans (answers s)⟩
  | error e => exact ⟨.err .refused, fun s b q n => step_busy_of_error b q n d⟩

theorem exists_answerAfterReset (r : Request) :
    ∃ resp : Response, answerAfterReset r = some resp ∧
      ∀ s : State, s.busy = true → s.req = some r → noResetNext s → step s = .next (answered s resp) := by
  obtain ⟨resp, answers⟩ := exists_answer r
  refine ⟨resp, ?_, answers⟩
  rw [answerAfterReset, answers (performing r) rfl rfl (noResetNext_performing r)]
  rfl

/-- Settles O54: the one answer of the request is also its answer right after reset. -/
theorem equalRequestsGetEqualResponses : Obligations.EqualRequestsGetEqualResponses := by
  intro s r b q n
  obtain ⟨resp, first, answers⟩ := exists_answerAfterReset r
  exact ⟨resp, first, answers s b q n⟩

/-- Settles O52: an issue is no reset, so the block answers first; the issue is still next, and the block now idle. -/
theorem requestWhileBusyIsHeld : Obligations.RequestWhileBusyIsHeld := by
  intro s r r' rest b q h
  obtain ⟨resp, answers⟩ := exists_answer r
  exact ⟨resp, answers s b q (noResetNext_of_host h nofun), step_of_issue_idle (answered_busy s resp) h⟩

/-- Settles O53: the reset, the issue of the same request and its answer, a step each. -/
theorem resetAbandonsTheRequest : Obligations.ResetAbandonsTheRequest := by
  intro s r rest _ _ n h
  obtain ⟨resp, first, answers⟩ := exists_answerAfterReset r
  exact ⟨step_of_reset h, step_of_issue_idle rfl rfl, resp, first, answers _ rfl rfl n⟩

/-! ## Runs (R59) -/

theorem run_succ_of_step {s s' : State} (h : step s = .next s') (k : ℕ) :
    Sys2Proof.core.run (k + 1) s = Sys2Proof.core.run k s' := by
  have step_core : Sys2Proof.core.step s = .next s' := h
  simp only [Host.Core.run, step_core]

theorem issueAndTake_cons (r : Request) (rs : List Request) :
    issueAndTake (r :: rs) = .issue r :: .take :: issueAndTake rs := rfl

/-- A request issued and its response taken: three steps of an idle block. -/
theorem run_issue_take {s : State} {r : Request} {rest : List HostAction} (idle : s.busy = false)
    (h : s.host = .issue r :: .take :: rest) :
    ∃ (resp : Response) (t : State), answerAfterReset r = some resp ∧
      (∀ k, Sys2Proof.core.run (k + 3) s = Sys2Proof.core.run k t) ∧
      t.host = rest ∧ t.busy = false ∧ t.rsp = none ∧ t.taken = s.taken ++ [resp] := by
  obtain ⟨resp, first, answers⟩ := exists_answerAfterReset r
  have issued := step_of_issue_idle idle h
  have performed := answers ((s.withHost (.take :: rest)).accept r) rfl rfl (noResetNext_of_host (rest := rest) rfl nofun)
  have taken := step_of_take_idle (s := answered ((s.withHost (.take :: rest)).accept r) resp) (rest := rest) rfl rfl
  refine ⟨resp, ((answered ((s.withHost (.take :: rest)).accept r) resp).withHost rest).takeResponse, first, fun k => ?_,
    by simp, by simp, by simp, by simp⟩
  rw [run_succ_of_step issued, run_succ_of_step performed, run_succ_of_step taken]

/-- R32, R59, R234: the run of a whole list; RSP is empty at its end if a request was taken, or if it was empty before. -/
theorem run_issueAndTake (rs : List Request) {s : State} {rest : List HostAction} (idle : s.busy = false)
    (h : s.host = issueAndTake rs ++ rest) :
    ∃ t : State, Sys2Proof.core.run (3 * rs.length) s = .next t ∧ t.host = rest ∧ t.busy = false ∧
      t.taken.map some = s.taken.map some ++ rs.map answerAfterReset ∧ (rs ≠ [] ∨ s.rsp = none → t.rsp = none) := by
  induction rs generalizing s with
  | nil => exact ⟨s, rfl, h, idle, (List.append_nil _).symm, fun empty => empty.resolve_left (not_not_intro rfl)⟩
  | cons r rs ih =>
    obtain ⟨resp, s', first, runs, host, idle', empty, taken⟩ := run_issue_take idle h
    obtain ⟨t, run, host', idle'', all, empty'⟩ := ih idle' host
    refine ⟨t, (runs (3 * rs.length)).trans run, host', idle'', ?_, fun _ => empty' (.inr empty)⟩
    simp [all, taken, first]

/-- Settles O55: by induction on the list of requests. -/
theorem responsesComeBackInIssueOrder : Obligations.ResponsesComeBackInIssueOrder := by
  intro rs s rest idle h
  obtain ⟨t, run, host, idle', taken, empty⟩ := run_issueAndTake rs idle h
  exact ⟨t, run, host, idle', taken, fun some => empty (.inl some)⟩

/-! ## The frame of the operations -/

/-- Settles O56: such a row answers, and an answer changes REQ, BUSY and RSP alone. -/
theorem operationFrame : Obligations.OperationFrame := by
  intro i s t notMaster notSlave h
  have operation : isCall i = false := by
    cases i with
    | adapterMaster d cap => exact absurd rfl (notMaster d cap)
    | adapterSlave p => exact absurd rfl (notSlave p)
    | _ => rfl
  obtain ⟨r, answers⟩ := exec_operation operation
  obtain rfl := Host.Outcome.next.inj (h.symm.trans (answers s))
  exact ⟨rfl, rfl, rfl, rfl, rfl, rfl, rfl, rfl⟩

/-! ## The wire rows (R1, R86, R89, R90) -/

/-- R66: a listed request whose operands are too long is no instruction. -/
theorem decode_request_too_long {op : Byte} {args : List Operand} {i : Instr} (listed : op ∈ listedOpcodes)
    (shape : operandsOf? op args = some i) (long : i.fits = false) :
    decode (.request ⟨op, args⟩) = .error .operandTooLong := by
  simp [decode, readEncoded, listed, shape, long]

theorem fitsBufCap_eq_false {p : List Byte} (h : Config.bufCap < p.length) : fitsBufCap p = false :=
  decide_eq_false h.not_ge

theorem decode_payload_too_long {p : List Byte} (h : Config.bufCap < p.length) :
    decode (.payload p) = .error .operandTooLong := by
  cases p with
  | nil => exact absurd h (Nat.not_lt_zero _)
  | cons b msg => simpa [decode, readEncoded, Encoded.fits, Instr.fits] using h

theorem exec_messageInstr (w : WireMessage) (s : State) :
    exec (messageInstr w) s = .next (answered s (.ok (.event (eventOfMessage w)))) := by
  cases w <;> rfl

/-- Log 7: the row of a message answers as MIDI_PARSE of all of it. -/
theorem exec_messageInstr_eq_exec_midiParse {bytes : List Byte} {i : Instr} (d : decode (.wire bytes) = .ok i) (s : State) :
    exec (.midiParse bytes bytes.length) s = exec i s := by
  obtain ⟨read, -, -⟩ := decode_eq_ok_iff.mp d
  obtain ⟨le, rfl⟩ := readEncoded_wire_eq_ok read
  rw [exec_midiParse_of_decodeMessage s (h := le) rfl, exec_messageInstr]

theorem exec_hdrParse_eq_exec_payloadHeader {b : Byte} {i : Instr} (d : decode (.header b) = .ok i) (s : State) :
    exec (.hdrParse [b]) s = exec i s := by
  cases d
  rw [← byteOfNibbles_of_nibbles b]
  simp only [highNibble_byteOfNibbles, lowNibble_byteOfNibbles]
  rfl

theorem exec_slaveFlow_eq_exec_netsyncPayload {p : List Byte} {i : Instr} (d : decode (.payload p) = .ok i) (s : State) :
    exec (.slaveFlow p) s = exec i s := by
  obtain ⟨read, -, -⟩ := decode_eq_ok_iff.mp d
  cases p with
  | nil => cases read
  | cons b msg =>
    cases read
    exact congrArg (fun first => exec (.slaveFlow (first :: msg)) s) (byteOfHeader_headerOfByte b).symm

/-- Settles O48: each request decodes to the operation, which answers as the row; above the bound neither decodes. -/
theorem stepRunsTheWireInstruction : Obligations.StepRunsTheWireInstruction := by
  intro s b n
  refine ⟨fun bytes q => ⟨?message, ?longMessage⟩, ?header, fun p q => ⟨?payload, ?longPayload⟩⟩
  case message =>
    intro i cap d
    rw [step_busy_of_ok b q n ((decode_midiParse bytes bytes.length).trans (if_pos ⟨cap, cap⟩)),
      exec_messageInstr_eq_exec_midiParse d]
  case longMessage =>
    intro long
    have tooLong : ¬(bytes.length ≤ Config.bufCap ∧ bytes.length ≤ Config.bufCap) := by omega
    exact ⟨decode_wire_too_long long,
      step_busy_of_error b q n ((decode_midiParse bytes bytes.length).trans (if_neg tooLong))⟩
  case header =>
    intro byte i q d
    rw [step_busy_of_ok b q n (decode_hdrParse (le_bufCap (by simp))), exec_hdrParse_eq_exec_payloadHeader d]
  case payload =>
    intro i cap d
    rw [step_busy_of_ok b q n (decode_slaveFlow cap), exec_slaveFlow_eq_exec_netsyncPayload d]
  case longPayload =>
    intro long
    exact ⟨decode_payload_too_long long,
      step_busy_of_error b q n (decode_request_too_long (by decide) rfl (fitsBufCap_eq_false long))⟩

end Sys2Proof.Machine
end

section
/-! Legal answers and the invariant, 60_exceptions.md R200 to R204 and 10_state.md R32: what each operation answers within
the bounds of R9 and R66, when the interface answers REFUSED, and that every step keeps the invariant. -/

namespace Sys2Proof.Machine

/-! ## Lawful outcomes -/

/-- An outcome of an operation: a legal result, or a legal error that is not the interface's own verdict (R204). -/
def Lawful : Except ErrorKind Result → Prop
  | .ok r => legalResult r
  | .error k => legalResponse (.err k) ∧ k ≠ .refused

theorem legalResponse_of_lawful {o : Except ErrorKind Result} (h : Lawful o) : legalResponse (responseOf o) := by
  cases o with
  | ok r => exact h
  | error k => exact h.1

theorem ne_refused_of_lawful {o : Except ErrorKind Result} (h : Lawful o) : responseOf o ≠ .err .refused := by
  cases o with
  | ok r => nofun
  | error k => exact fun refused => h.2 (Response.err.inj refused)

theorem lawful_hdrParse (buf : List Byte) : Lawful ((hdrParse buf).map .header) := by
  cases buf with
  | nil => exact ⟨trivial, nofun⟩
  | cons b rest => exact trivial

/-- R30, R66, R114, R124: whatever the parser reads from a buffer within the bound is a legal event. -/
theorem legalEvent_of_reads {buf : List Byte} {len : Nat} {w : WireMessage} (one : 1 ≤ len)
    (cap : buf.length ≤ Config.bufCap) (read : Reads buf len w) : legalEvent (eventOfMessage w) := by
  cases w with
  | mtcQuarter t v =>
    refine ⟨?_, ?_⟩ <;> rw [widenNibble_toNat]
    · exact Nat.le_of_lt_succ t.isLt
    · exact Nat.le_of_lt_succ v.isLt
  | mtcFull => exact not_mem_of_reads_full read
  | mmcStop | mmcPlay => trivial
  | mmcLocate h m s f u =>
    have fields := not_mem_of_reads_locate read
    exact ⟨fun hm => fields (List.mem_append_left [u] hm), rfl⟩
  | other => exact ⟨otherMessage_of_reads one read, (length_le_of_reads_other read).trans cap⟩

theorem legalEvent_of_midiParse {buf : List Byte} {len : Nat} {e : MidiEvent} (cap : buf.length ≤ Config.bufCap)
    (h : midiParse buf len = .ok e) : legalEvent e := by
  obtain ⟨one, w, read, rfl⟩ := reads_of_midiParse h
  exact legalEvent_of_reads one cap read

theorem lawful_midiParse {buf : List Byte} {len : Nat} (capBuf : buf.length ≤ Config.bufCap)
    (capLen : len ≤ Config.bufCap) : Lawful ((midiParse buf len).map .event) := by
  rcases midiParse_cases buf len with ⟨-, outcome⟩ | ⟨-, some, short, outcome⟩ | ⟨_, outcome⟩
  · rw [outcome]
    exact ⟨trivial, nofun⟩
  · rw [outcome]
    exact ⟨⟨some, short, capLen⟩, nofun⟩
  · have legal := legalEvent_of_midiParse capBuf outcome
    rw [outcome]
    exact legal

/-- R184: an error of the flow is `InvalidSlaveEvent`, and its event the parser's. -/
theorem lawful_slaveFlow {p : List Byte} (cap : p.length ≤ Config.bufCap) : Lawful ((slaveFlow p).map .event) := by
  rcases Nat.lt_or_ge p.length 3 with short | long
  · rw [slaveFlow_of_short short]
    exact ⟨trivial, nofun⟩
  · obtain ⟨b, rest, rfl⟩ := List.exists_cons_of_length_pos (Nat.zero_lt_of_lt long)
    rw [slaveFlow_cons b (Nat.le_of_succ_le_succ long)]
    cases parsed : midiParse rest (b.toNat % 16) with
    | ok e => exact legalEvent_of_midiParse ((Nat.le_succ _).trans cap) parsed
    | error k => exact ⟨trivial, nofun⟩

/-- R146, R182: a fixed-length message is at most 13 bytes, and an `Other` is its operand. -/
theorem length_midiBuild_le {e : MidiEvent} (fits : e.fits = true) : (midiBuild e).length ≤ Config.bufCap := by
  cases e with
  | other bytes => exact of_decide_eq_true fits
  | mtcQuarter | mtcFull | mmcStop | mmcPlay | mmcLocate => exact le_bufCap (by simp [midiBuild])

theorem masterFlow_of_no_fixedLength {e : MidiEvent} (h : fixedLength e = none) :
    masterFlow e = .error .invalidMasterEvent := by
  rw [masterFlow, h]

theorem lawful_masterFlow (e : MidiEvent) : Lawful ((masterFlow e).map .bytes) := by
  cases len : fixedLength e with
  | none =>
    rw [masterFlow_of_no_fixedLength len]
    exact ⟨trivial, nofun⟩
  | some n =>
    have short : (BitVec.ofNat 8 n :: midiBuild e).length ≤ 16 := by
      rw [List.length_cons, length_midiBuild len]
      exact fixedLength_lt len
    rw [masterFlow_of_fixedLength len]
    exact le_bufCap short

/-- R170's two errors. -/
theorem quarterFrameScan_eq_some {i : Nat} {qs : List MtcQuarterFrame} {k : ErrorKind}
    (h : quarterFrameScan i qs = some k) : k = .invalidFrameType ∨ k = .invalidValue := by
  induction qs generalizing i with
  | nil => cases h
  | cons q qs ih =>
    rw [quarterFrameScan] at h
    split_ifs at h
    · exact .inl (Option.some.inj h).symm
    · exact .inr (Option.some.inj h).symm
    · exact ih h

theorem lawful_qfToSmpte (q : QuarterFrameArray) : Lawful ((qfToSmpte q).map .timecode) := by
  cases scan : quarterFrameScan 0 (quarterFrameList q) with
  | some k =>
    rw [qfToSmpte_of_scan_some scan]
    rcases quarterFrameScan_eq_some scan with rfl | rfl
    all_goals exact ⟨trivial, nofun⟩
  | none =>
    rw [qfToSmpte_of_scan_none scan]
    split_ifs with tests
    · exact tests.1
    · exact ⟨trivial, nofun⟩

/-- R160: the largest answer, of the largest field values. -/
theorem smpteToUs_le (f : MtcFullFrame) : (smpteToUs f).toNat ≤ 933563500000 := by
  have le := framenumOfTimecode_le f
  rw [smpteToUs_toNat]
  omega

theorem legalQuarterFrames_smpteToQf (f : MtcFullFrame) : legalQuarterFrames (smpteToQf f) := by
  refine ⟨rfl, fun a ha => ?_, ?_⟩
  · obtain ⟨i, at_i⟩ := List.mem_iff_getElem?.mp ha
    exact (smpteToQf_passes at_i).2
  · have value : (smpteToQf f).q7.value.toNat = 6 + f.hours.toNat / 16 % 2 := hoursHighValue_toNat f.hours
    rcases Nat.mod_two_eq_zero_or_one (f.hours.toNat / 16) with bit | bit
    · exact .inl (BitVec.eq_of_toNat_eq (by rw [value, bit]; rfl))
    · exact .inr (BitVec.eq_of_toNat_eq (by rw [value, bit]; rfl))

/-! ## Every request -/

/-- Every row of R70 whose operands are within the bound answers lawfully. -/
theorem exists_lawful_of_isOperation {i : Instr} (row : isOperation i = true) (fits : i.fits = true) :
    ∃ o : Except ErrorKind Result, Lawful o ∧ ∀ s : State, exec i s = .next (s.complete o) := by
  cases i with
  | hdrNew flags len => exact ⟨.ok (.header (hdrNew flags len)), trivial, fun _ => rfl⟩
  | hdrSerialize h => exact ⟨.ok (.bytes [byteOfHeader h]), le_bufCap (Nat.succ_le_succ (Nat.zero_le _)), fun _ => rfl⟩
  | hdrParse buf => exact ⟨_, lawful_hdrParse buf, fun _ => rfl⟩
  | midiParse buf len =>
    simp only [Instr.fits, Bool.and_eq_true, fitsBufCap, decide_eq_true_eq] at fits
    exact ⟨_, lawful_midiParse fits.1 fits.2, fun _ => rfl⟩
  | midiBuild e => exact ⟨.ok (.bytes (midiBuild e)), length_midiBuild_le fits, fun _ => rfl⟩
  | usToSmpte us => exact ⟨.ok (.timecode (usToSmpte us)), inRange_timecodeOfFramenum _, fun _ => rfl⟩
  | smpteToUs f => exact ⟨.ok (.us (smpteToUs f)), smpteToUs_le f, fun _ => rfl⟩
  | smpteToQf f => exact ⟨.ok (.quarterFrames (smpteToQf f)), legalQuarterFrames_smpteToQf f, fun _ => rfl⟩
  | qfToSmpte q => exact ⟨_, lawful_qfToSmpte q, fun _ => rfl⟩
  | masterFlow e => exact ⟨_, lawful_masterFlow e, fun _ => rfl⟩
  | slaveFlow p => exact ⟨_, lawful_slaveFlow (of_decide_eq_true fits), fun _ => rfl⟩
  | _ => cases row

/-- R204: what a request that decodes is answered, and when that is REFUSED. -/
theorem exists_legal_of_decode_request {r : Request} {i : Instr} (d : decode (.request r) = .ok i) :
    ∃ resp : Response, legalResponse resp ∧ (resp = .err .refused ↔ r.op ∉ listedOpcodes) ∧
      ∀ s : State, exec i s = .next (answered s resp) := by
  rcases decode_request_cases d with ⟨listed, row, -, fits⟩ | ⟨unlisted, rfl⟩
  · obtain ⟨o, lawful, answers⟩ := exists_lawful_of_isOperation row fits
    exact ⟨responseOf o, legalResponse_of_lawful lawful,
      iff_of_false (ne_refused_of_lawful lawful) (not_not_intro listed), answers⟩
  · exact ⟨.err .refused, trivial, iff_of_true rfl unlisted, exec_reservedOpcode r.op⟩

/-- Settles O49: an accepted request is the encoding of its well-formed instruction, or reserved; one that is rejected is no
well-formed instruction's encoding, since that would decode. -/
theorem refusedExactlyAtTheInterface : Obligations.RefusedExactlyAtTheInterface := by
  intro s r b q n
  cases d : decode (.request r) with
  | ok i =>
    obtain ⟨resp, -, refused, answers⟩ := exists_legal_of_decode_request d
    refine ⟨resp, (step_busy_of_ok b q n d).trans (answers s), refused.trans ⟨.inl, ?_⟩⟩
    rintro (unlisted | none) listed
    · exact unlisted listed
    · exact none i (decodedIsWellFormed _ _ d) (acceptedRequestIsItsEncoding r i listed d)
  | error e =>
    refine ⟨.err .refused, step_busy_of_error b q n d, iff_of_true rfl (.inr fun i wf enc => ?_)⟩
    cases d.symm.trans (enc ▸ decodeOfEncode i wf)

/-- The request of a busy block that steps without a reset is answered legally. -/
theorem exists_legal_of_step_busy {s t : State} (b : s.busy = true) (n : noResetNext s) (h : step s = .next t) :
    ∃ resp, legalResponse resp ∧ t = answered s resp := by
  have idle (off : s.busy = false) : False := Bool.false_ne_true (off.symm.trans b)
  rcases step_cases h with ⟨rest, reset, -⟩ | ⟨_, _, off, -⟩ | ⟨_, off, -⟩ | ⟨off, -⟩ | ⟨_, _, _, off, -⟩ |
    ⟨_, _, _, off, -⟩ | ⟨r, i, -, -, d, run⟩ | ⟨r, e, -, -, -, rfl⟩
  · exact absurd reset (n rest)
  · exact (idle off).elim
  · exact (idle off).elim
  · exact (idle off).elim
  · exact (idle off).elim
  · exact (idle off).elim
  · obtain ⟨resp, legal, -, answers⟩ := exists_legal_of_decode_request d
    exact ⟨resp, legal, Host.Outcome.next.inj (run.symm.trans (answers s))⟩
  · exact ⟨.err .refused, trivial, rfl⟩

/-- Settles O50: every over-long operand fails the decoder's one test of the bound, and a legal byte result is within it. -/
theorem byteSequencesStayWithinBufCap : Obligations.ByteSequencesStayWithinBufCap := by
  refine ⟨?operand, ?len, ?result⟩
  case operand =>
    intro s r bytes b q n long form
    have over_cap := fitsBufCap_eq_false long
    have rejected : decode (.request r) = .error .operandTooLong := by
      rcases form with rfl | ⟨len, rfl⟩ | rfl | rfl | rfl
      · exact decode_request_too_long (by decide) rfl over_cap
      · exact (decode_midiParse bytes len).trans (if_neg fun fits => long.not_ge fits.1)
      · exact decode_request_too_long (by decide) rfl over_cap
      · exact decode_request_too_long (by decide) (operandsOf?_build_event _) over_cap
      · exact decode_request_too_long (by decide) (operandsOf?_master_event _) over_cap
    exact step_busy_of_error b q n rejected
  case len =>
    intro s buf len b q n long
    exact step_busy_of_error b q n ((decode_midiParse buf len).trans (if_neg fun fits => long.not_ge fits.2))
  case result =>
    intro s t bytes b n h ok
    obtain ⟨resp, legal, rfl⟩ := exists_legal_of_step_busy b n h
    obtain rfl := Option.some.inj ok
    exact legal

/-! ## The invariant -/

/-- A state with BUSY = 0 needs no more than an empty REQ and legal responses and return. -/
theorem inv_of_idle {s : State} (busy : s.busy = false) (req : s.req = none)
    (rsp : ∀ r, s.rsp = some r → legalResponse r) (taken : ∀ r ∈ s.taken, legalResponse r) (ret : ∀ r, s.ret = some r → legalReturn r) : Inv s where
  busy_iff := by rw [busy, req]; rfl
  busy_rsp on := absurd (busy.symm.trans on) Bool.false_ne_true
  rsp_legal := rsp
  taken_legal := taken
  ret_legal := ret

theorem Inv.req_eq_none {s : State} (inv : Inv s) (busy : s.busy = false) : s.req = none :=
  Option.not_isSome_iff_eq_none.mp fun some => Bool.false_ne_true (busy.symm.trans (inv.busy_iff.trans some))

theorem Inv.answered {s : State} (inv : Inv s) {resp : Response} (legal : legalResponse resp) : Inv (answered s resp) :=
  inv_of_idle rfl rfl (fun _ h => Option.some.inj h ▸ legal) inv.taken_legal inv.ret_legal

theorem Inv.resetBlock {s : State} (inv : Inv s) : Inv s.resetBlock :=
  inv_of_idle rfl rfl (fun _ => nofun) inv.taken_legal inv.ret_legal

theorem Inv.withHost {s : State} (inv : Inv s) (rest : List HostAction) : Inv (s.withHost rest) :=
  ⟨inv.busy_iff, inv.busy_rsp, inv.rsp_legal, inv.taken_legal, inv.ret_legal⟩

theorem Inv.accept {s : State} (inv : Inv s) (r : Request) : Inv (s.accept r) :=
  ⟨rfl, fun _ => rfl, fun _ => nofun, inv.taken_legal, inv.ret_legal⟩

theorem Inv.takeResponse {s : State} (inv : Inv s) (busy : s.busy = false) : Inv s.takeResponse := by
  apply inv_of_idle
  case busy => rw [State.takeResponse_busy, busy]
  case req => rw [State.takeResponse_req, inv.req_eq_none busy]
  case rsp => exact fun r h => absurd (s.takeResponse_rsp.symm.trans h) nofun
  case taken =>
    intro r h
    rw [State.takeResponse_taken, List.mem_append, Option.mem_toList] at h
    exact h.elim (inv.taken_legal r) (inv.rsp_legal r)
  case ret => rw [State.takeResponse_ret]; exact inv.ret_legal

/-- R196, R197: what a call of an idle block leaves, whichever entry point it is. -/
theorem exec_call_cases {i : Instr} {s t : State} (call : isCall i = true) (idle : s.busy = false) (h : exec i s = .next t) :
    t.busy = false ∧ t.taken = s.taken ∧ ((t.req = s.req ∧ t.rsp = s.rsp) ∨ (t.req = none ∧ t.rsp = none)) ∧
      ∃ r, t.ret = some r ∧ legalReturn r := by
  cases i with
  | adapterMaster d cap =>
    rcases exec_adapterMaster_cases d cap idle with ⟨-, after⟩ | ⟨e, p, -, -, short, ⟨-, after⟩ | ⟨-, after⟩⟩
    · cases h.symm.trans after
      exact ⟨idle, rfl, .inl ⟨rfl, rfl⟩, _, rfl, by simp, Nat.zero_le _⟩
    · cases h.symm.trans after
      exact ⟨rfl, rfl, .inr ⟨rfl, rfl⟩, _, rfl, by simp, Nat.zero_le _⟩
    · cases h.symm.trans after
      exact ⟨rfl, rfl, .inr ⟨rfl, rfl⟩, _, rfl, by simp, short⟩
  | adapterSlave p =>
    rcases exec_adapterSlave_cases p idle with ⟨k, -, after⟩ | ⟨e, -, -, after⟩ | ⟨e, d, -, -, after⟩
    all_goals
      cases h.symm.trans after
      exact ⟨rfl, rfl, .inr ⟨rfl, rfl⟩, _, rfl, by simp, Nat.zero_le _⟩
  | _ => cases call

theorem Inv.exec_call {i : Instr} {s t : State} (inv : Inv s) (call : isCall i = true) (idle : s.busy = false)
    (h : exec i s = .next t) : Inv t := by
  obtain ⟨busy, taken, kept | empty, r, ret, legal⟩ := exec_call_cases call idle h
  · exact inv_of_idle busy (kept.1.trans (inv.req_eq_none idle)) (kept.2 ▸ inv.rsp_legal) (taken ▸ inv.taken_legal)
      fun r' h' => Option.some.inj (ret.symm.trans h') ▸ legal
  · exact inv_of_idle busy empty.1 (fun _ some => absurd (empty.2.symm.trans some) nofun) (taken ▸ inv.taken_legal)
      fun r' h' => Option.some.inj (ret.symm.trans h') ▸ legal

/-- A call is no byte-sequence operand of the block (R197), so it always decodes. -/
theorem exists_decode_call (c : Call) : ∃ i, isCall i = true ∧ decode (.call c) = .ok i := by
  cases c with
  | master d cap => exact ⟨.adapterMaster d cap, rfl, rfl⟩
  | slave p => exact ⟨.adapterSlave p, rfl, rfl⟩

/-- Settles O58: the cases of a step; the host's actions and the adapter's calls move legal responses only, and what the
block answers is legal. -/
theorem stepKeepsInv : Obligations.StepKeepsInv := by
  intro s t inv h
  rcases step_cases h with ⟨rest, -, rfl⟩ | ⟨r, rest, -, -, rfl⟩ | ⟨rest, idle, -, rfl⟩ | ⟨-, -, rfl⟩ |
    ⟨c, rest, i, idle, -, d, run⟩ | ⟨c, rest, e, -, -, -, rfl⟩ | ⟨r, i, -, -, d, run⟩ | ⟨r, e, -, -, -, rfl⟩
  · exact (inv.withHost rest).resetBlock
  · exact (inv.withHost rest).accept r
  · exact (inv.withHost rest).takeResponse idle
  · exact inv
  · obtain ⟨i', call, d'⟩ := exists_decode_call c
    obtain rfl := Except.ok.inj (d.symm.trans d')
    exact (inv.withHost rest).exec_call call idle run
  · exact (inv.withHost rest).answered (resp := .err .refused) trivial
  · obtain ⟨resp, legal, -, answers⟩ := exists_legal_of_decode_request d
    obtain rfl := Host.Outcome.next.inj (run.symm.trans (answers s))
    exact inv.answered legal
  · exact inv.answered (resp := .err .refused) trivial

/-- Settles O59: everything at reset is empty. -/
theorem resetHasInv : Obligations.ResetHasInv :=
  inv_of_idle rfl rfl (fun _ => nofun) (fun _ => nofun) (fun _ => nofun)

/-! ## No stop (R238) -/

theorem exists_exec_eq_next (i : Instr) (s : State) : ∃ t, exec i s = .next t := by
  cases call : isCall i with
  | false =>
    obtain ⟨resp, answers⟩ := exec_operation call
    exact ⟨_, answers s⟩
  | true =>
    cases idle : s.busy with
    | true => exact ⟨s, exec_call_of_busy call idle⟩
    | false =>
      cases i with
      | adapterMaster d cap =>
        rcases exec_adapterMaster_cases d cap idle with ⟨-, after⟩ | ⟨_, _, -, -, -, ⟨-, after⟩ | ⟨-, after⟩⟩
        all_goals exact ⟨_, after⟩
      | adapterSlave p => exact ⟨_, exec_adapterSlave_of_idle p idle⟩
      | _ => cases call

/-- Settles O60: while BUSY = 1 the invariant gives REQ a request, and an idle step does the host's next action. -/
theorem everyStepAnswers : Obligations.EveryStepAnswers := by
  intro s inv
  cases busy : s.busy with
  | true =>
    obtain ⟨r, q⟩ := Option.isSome_iff_exists.mp (inv.busy_iff.symm.trans busy)
    by_cases n : noResetNext s
    · obtain ⟨resp, answers⟩ := exists_answer r
      exact ⟨_, answers s busy q n⟩
    · obtain ⟨rest, reset⟩ := not_forall_not.mp n
      exact ⟨_, step_of_reset reset⟩
  | false =>
    rcases host : s.host with _ | ⟨_ | _ | _ | _, rest⟩
    case nil => exact ⟨s, step_of_no_action busy host⟩
    case cons.issue r => exact ⟨_, step_of_issue_idle busy host⟩
    case cons.take => exact ⟨_, step_of_take_idle busy host⟩
    case cons.reset => exact ⟨_, step_of_reset host⟩
    case cons.call c =>
      obtain ⟨i, -, d⟩ := exists_decode_call c
      rw [step_of_call_idle busy host d]
      exact exists_exec_eq_next i _

end Sys2Proof.Machine
end

section
/-! Headers, flows and wire rows, 40_header.md R103, 44_netsync_flow.md R181 and 30_encoding.md R81 to R90, and the numbers
of the outcomes, 60_exceptions.md R201. -/

namespace Sys2Proof.Machine

/-- Settles O4: the byte and the header are two forms of the same nibbles. -/
theorem headerSerializeParseInverse : Obligations.HeaderSerializeParseInverse := by
  constructor
  case left =>
    intro h s s'
    refine ⟨_, exec_hdrSerialize h s, ?_⟩
    rw [exec_hdrParse_cons, headerOfByte_byteOfHeader]
  case right =>
    intro b s s'
    refine ⟨_, exec_hdrParse_cons b [] s, ?_⟩
    rw [exec_hdrSerialize, byteOfHeader_headerOfByte]

/-- Settles O30: the header byte is the fixed length, below 16, and the built message has that length. -/
theorem masterHeaderCountsTheMessage : Obligations.MasterHeaderCountsTheMessage := by
  intro e s s' p h
  cases len : fixedLength e with
  | none =>
    rw [exec_masterFlow, masterFlow_of_no_fixedLength len] at h
    cases h
  | some n =>
    have lt := fixedLength_lt len
    have byte : (BitVec.ofNat 8 n).toNat = n := Nat.mod_eq_of_lt (by omega)
    rw [exec_masterFlow_of_fixedLength s len] at h
    cases h
    refine ⟨_, _, rfl, ?_, ?_, exec_midiBuild e s'⟩
    · rw [byte, length_midiBuild len, Nat.mod_eq_of_lt lt]
    · rw [byte, Nat.div_eq_of_lt lt]

/-- Settles O33: each row answers the event of its message, whose nibbles are widened to bytes. -/
theorem messageRowsAnswerTheirEvent : Obligations.MessageRowsAnswerTheirEvent := by
  intro s
  refine ⟨fun t v => ⟨widenNibble t, widenNibble v, widenNibble_toNat t, widenNibble_toNat v, ?quarter⟩, ?full, ?stop, ?play,
    ?locate, ?other⟩
  case quarter => exact exec_messageInstr (.mtcQuarter t v) s
  case full => exact fun h m sec f => exec_messageInstr (.mtcFull h m sec f) s
  case stop => exact exec_messageInstr .mmcStop s
  case play => exact exec_messageInstr .mmcPlay s
  case locate => exact fun h m sec f u => exec_messageInstr (.mmcLocate h m sec f u) s
  case other => exact fun bytes => exec_messageInstr (.other bytes) s

/-- Log 7: the payload row answers as the slave flow of its bytes. -/
theorem exec_netsyncPayload (h : PayloadHeader) (msg : List Byte) (s : State) :
    exec (.netsyncPayload h msg) s = exec (.slaveFlow (byteOfHeader h :: msg)) s := rfl

/-- Settles O34: the header byte parses to its two nibbles, and the payload row is the slave flow, whose header length is the
low nibble of the byte. -/
theorem payloadRowsAnswerHeaderAndEvent : Obligations.PayloadRowsAnswerHeaderAndEvent := by
  constructor
  case left =>
    intro flags len s
    rw [← exec_hdrParse_eq_exec_payloadHeader (b := byteOfNibbles flags len) (i := .payloadHeader flags len)
      (decodeOfEncode (.payloadHeader flags len) rfl), exec_hdrParse_cons, headerOfByte,
      highNibble_byteOfNibbles, lowNibble_byteOfNibbles]
  case right =>
    intro h msg s s'
    obtain ⟨-, short, parsed⟩ := slaveFlowParsesAfterTheHeader
    have len : (byteOfHeader h).toNat % 16 = h.len.toNat := by
      have lt := h.len.isLt
      rw [byteOfHeader_toNat]
      omega
    rw [exec_netsyncPayload]
    rcases Nat.lt_or_ge msg.length 2 with one | two
    · rw [if_pos (.inl one)]
      exact short (byteOfHeader h :: msg) s (Nat.succ_lt_succ one)
    · have flow := parsed (byteOfHeader h) msg s s' two
      rw [len] at flow
      simpa only [or_iff_right two.not_gt] using flow

/-- Settles O42: the status column, row by row. -/
theorem statusNumbers : Obligations.StatusNumbers :=
  ⟨fun _ => rfl, rfl, fun _ _ => rfl, rfl, fun _ _ => rfl, rfl, rfl, rfl, rfl, rfl, rfl⟩

end Sys2Proof.Machine
end

section
/-! What the adapter's caller gets, 45_host_adapter.md R192, R193 and R196 to R199. -/

namespace Sys2Proof.Machine

/-! ## ADAPTER_MASTER -/

/-- Log 8: of an idle block, a call's taking its response empties REQ and RSP and leaves BUSY as it is. -/
theorem State.adapterTakes_of_idle {s : State} (idle : s.busy = false) :
    s.adapterTakes = { s with req := none, rsp := none } := by
  rw [State.adapterTakes, ← idle]

theorem adapterMaster_eq_masterReturns {e : MidiEvent} {p : List Byte} (cap : Nat) {s : State} (idle : s.busy = false)
    (h : masterRequest e = .ok p) : adapterMaster e cap s = masterReturns s cap p := by
  rw [adapterMaster, h, State.adapterTakes_of_idle idle, masterReturns]
  rfl

theorem exec_adapterMaster_of_event {d : Descriptor} {e : MidiEvent} {n : Nat} (cap : Nat) {s : State}
    (idle : s.busy = false) (event : eventOfDescriptor d = some e) (len : fixedLength e = some n) :
    exec (.adapterMaster d cap) s = .next (masterReturns s cap (BitVec.ofNat 8 n :: midiBuild e)) := by
  rw [exec_adapterMaster_of_accepted cap idle event,
    adapterMaster_eq_masterReturns cap idle (masterRequest_of_fixedLength len)]

/-- R192: a descriptor of another kind, or of another length than its kind's, stands for no event. -/
theorem eventOfDescriptor_eq_none {d : Descriptor}
    (h : (d.kind, d.length) ∉ ([(0, 2), (1, 4), (2, 0), (3, 0), (4, 4)] : List (Byte × Byte))) :
    eventOfDescriptor d = none := by
  refine if_neg fun required => h ?_
  unfold requiredLength at required
  split_ifs at required
  all_goals simp_all

/-- Settles O36: each accepted descriptor is its kind's event, whose payload always exists; the others issue nothing. -/
theorem adapterMasterByDescriptor : Obligations.AdapterMasterByDescriptor := by
  rintro ⟨kind, data, length⟩ cap s idle
  refine ⟨?quarter, ?full, ?stop, ?play, ?locate, fun other => ?rejected⟩
  case quarter =>
    rintro rfl rfl
    exact ⟨quarterDataByte data.d0 data.d1, quarterDataByte_toNat _ _,
      exec_adapterMaster_of_event (e := .mtcQuarter data.d0 data.d1) cap idle rfl rfl⟩
  case full =>
    rintro rfl rfl
    exact exec_adapterMaster_of_event (e := .mtcFull data.d0 data.d1 data.d2 data.d3) cap idle rfl rfl
  case stop =>
    rintro rfl rfl
    exact exec_adapterMaster_of_event (e := .mmcStop) cap idle rfl rfl
  case play =>
    rintro rfl rfl
    exact exec_adapterMaster_of_event (e := .mmcPlay) cap idle rfl rfl
  case locate =>
    rintro rfl rfl
    exact exec_adapterMaster_of_event (e := .mmcLocate data.d0 data.d1 data.d2 data.d3 0) cap idle rfl rfl
  case rejected => exact exec_adapterMaster_of_rejected cap idle (eventOfDescriptor_eq_none other)

/-! ## ADAPTER_SLAVE -/

theorem adapterSlave_of_event {p : List Byte} {e : MidiEvent} {s : State} (idle : s.busy = false)
    (h : slaveRequest p = .ok e) : adapterSlave p s = slaveReturns s (some e) := by
  rw [adapterSlave, h, State.adapterTakes_of_idle idle]
  cases e <;> rfl

theorem adapterSlave_of_failure {p : List Byte} {k : ErrorKind} {s : State} (idle : s.busy = false)
    (h : slaveRequest p = .error k) : adapterSlave p s = slaveReturns s none := by
  rw [adapterSlave, h, State.adapterTakes_of_idle idle]
  rfl

theorem slaveRequest_of_fits {p : List Byte} (h : p.length ≤ Config.bufCap) : slaveRequest p = slaveFlow p :=
  if_pos (decide_eq_true h)

/-- R111 through the flow: at a header length of 2 or more, the nibbles of the data byte. -/
theorem slaveFlow_quarter {b : Byte} (data : Byte) {rest : List Byte} (two : 2 ≤ b.toNat % 16)
    (fits : b.toNat % 16 ≤ rest.length + 2) :
    slaveFlow (b :: 0xF1 :: data :: rest) =
      .ok (.mtcQuarter (widenNibble (highNibble data)) (widenNibble (lowNibble data))) := by
  have le : 1 ≤ b.toNat % 16 ∧ b.toNat % 16 ≤ (0xF1 :: data :: rest).length := ⟨by omega, fits⟩
  rw [slaveFlow_cons b (Nat.le_add_left 2 _), midiParse_of_le le, decodeMessage_quarter data rest two]
  rfl

/-- Settles O37: within `BUF_CAP` the interface answers what SLAVE_FLOW does, and a failure or an event is returned by it. -/
theorem adapterSlaveBySlaveFlow : Obligations.AdapterSlaveBySlaveFlow := by
  constructor
  case left =>
    intro p s idle fits
    have request := slaveRequest_of_fits fits
    rw [exec_adapterSlave_of_idle p idle]
    cases flow : slaveFlow p with
    | ok e =>
      exact .inl ⟨e, exec_slaveFlow_of_ok s flow, congrArg _ (adapterSlave_of_event idle (request.trans flow))⟩
    | error k =>
      exact .inr ⟨k, exec_slaveFlow_of_error s flow, congrArg _ (adapterSlave_of_failure idle (request.trans flow))⟩
  case right =>
    intro b data rest s idle fits two le
    have request := (slaveRequest_of_fits (p := b :: 0xF1 :: data :: rest) fits).trans (slaveFlow_quarter data two le)
    refine ⟨widenNibble (highNibble data), widenNibble (lowNibble data), by simp, by simp, ?_⟩
    rw [exec_adapterSlave_of_idle _ idle, adapterSlave_of_event idle request]

/-- Settles O38: the interface refuses the payload, which is a failure of the flow; a held call changes nothing. -/
theorem adapterAtTheInterface : Obligations.AdapterAtTheInterface := by
  constructor
  case left =>
    intro p s idle long
    have refused : slaveRequest p = .error .refused := if_neg (by simp [fitsBufCap_eq_false long])
    rw [exec_adapterSlave_of_idle p idle, adapterSlave_of_failure idle refused]
  case right => exact fun d cap p s busy => ⟨exec_call_of_busy rfl busy, exec_call_of_busy rfl busy⟩

/-! ## The frame (R199) -/

theorem getElem?_writtenOver_of_le {p buf : List Byte} {a : Nat} (h : p.length ≤ a) : (writtenOver p buf)[a]? = buf[a]? := by
  rw [writtenOver, List.getElem?_append_right h, List.getElem?_drop, Nat.add_sub_cancel' h]

/-- Settles O40: the outcomes of each entry point; the bytes after a written payload are the caller's own. -/
theorem adapterFrame : Obligations.AdapterFrame := by
  constructor
  case left =>
    intro d cap s t idle h
    rcases exec_adapterMaster_cases d cap idle with ⟨-, after⟩ | ⟨e, p, -, -, -, ⟨-, after⟩ | ⟨-, after⟩⟩
    · cases h.symm.trans after
      exact ⟨rfl, rfl, rfl, rfl, _, rfl, fun _ => rfl, fun _ _ => rfl⟩
    · cases h.symm.trans after
      exact ⟨rfl, rfl, idle.symm, rfl, _, rfl, fun _ => rfl, fun _ _ => rfl⟩
    · cases h.symm.trans after
      exact ⟨rfl, rfl, idle.symm, rfl, _, rfl, fun failed => absurd rfl failed, fun a => getElem?_writtenOver_of_le⟩
  case right =>
    intro p s t idle h
    rcases exec_adapterSlave_cases p idle with ⟨k, -, after⟩ | ⟨e, -, -, after⟩ | ⟨e, d, -, -, after⟩
    · cases h.symm.trans after
      exact ⟨rfl, rfl, idle.symm, rfl, _, rfl, fun _ => rfl⟩
    · cases h.symm.trans after
      exact ⟨rfl, rfl, idle.symm, rfl, _, rfl, fun _ => rfl⟩
    · cases h.symm.trans after
      exact ⟨rfl, rfl, idle.symm, rfl, _, rfl, fun failed => absurd rfl failed⟩

end Sys2Proof.Machine
end
